-- ==== Sys2Proof/Word.lean ====
section
/-! DEFINITION. The word types of the 3WSC (spec 00_scope.md R8, R10): bytes, operation words, host offsets, error codes. -/

namespace Sys2Proof

/-- A wire byte, host register or operand: an unsigned 8-bit value (00_scope.md R8, R10). -/
abbrev Byte := BitVec 8

/-- The 16-bit operation word, OPC in bits 15:8 and ARG in bits 7:0 (30_encoding.md R100). -/
abbrev OpWord := BitVec 16

/-- A byte offset of the host register space; the host bus has 6 address bits (20_memory.md R60). -/
abbrev Offset := BitVec 6

/-- The 4-bit result code STATUS.ERR (60_exceptions.md R261). -/
abbrev ErrCode := BitVec 4

/-- A line level: `false` is 0 (low), `true` is 1 (high) (10_state.md R21). -/
abbrev Level := Bool

end Sys2Proof
end

