-- ==== Sys2Proof/Config.lean ====
section
/-! DEFINITION. What an implementation fixes (00_scope.md R7 to R9) and the free values (20_memory.md R80, R84). -/

namespace Sys2Proof

/-- Where in each read clock the data line is sampled (00_scope.md R9, 20_memory.md R81). -/
inductive SamplePhase where
  | afterFall
  | beforeRise
  deriving DecidableEq, Repr

/-- What the write-protect guard writes back (00_scope.md R9, 44_codec_write.md R201). -/
inductive WpRestore where
  | forceSet
  | restorePrior
  deriving DecidableEq, Repr

/-- What a completed operation makes of DIO where it is an output, on which the spec's files disagree: it keeps the last
level driven (41_byte_transport.md R143, 40_bit_transport.md R132), or it goes low (60_exceptions.md R275). DESIGN CHOICE: the
model has both (log entry 22). -/
inductive DioRest where
  | kept
  | low
  deriving DecidableEq, Repr

/-- The named parameters a model takes as arguments and some rule depends on (00_scope.md R9), and the model's own `dioRest`
(log entry 22). -/
structure Params where
  samplePhase : SamplePhase
  ramBurstRd : Byte
  ramBurstWr : Byte
  wpRestore : WpRestore
  dioRest : DioRest
  deriving DecidableEq, Repr

/-- The defaults of R9: the source's text. The default of `dioRest` is the model's: DESIGN CHOICE (log entry 22). -/
def Params.defaults : Params :=
  { samplePhase := .afterFall, ramBurstRd := 0xBF, ramBurstWr := 0xBE, wpRestore := .forceSet
    dioRest := .kept }

/-- N_CLOCK_BLOCK, the byte count of a ClockBlock burst (R7). -/
def Config.nClockBlock : Nat := 9

/-- N_RAM_BLOCK, the byte count of a RamBlock burst (R7). -/
def Config.nRamBlock : Nat := 31

/-- CMD_BURST_RD (R7). -/
def Config.cmdBurstRd : Byte := 0xBF

/-- CMD_BURST_WR (R7). -/
def Config.cmdBurstWr : Byte := 0xBE

/-- The lower bound, in microseconds, of the wait after chip-enable is asserted: T_CE_SETUP >= 4 us (R7, R300). -/
def Config.tCeSetup : Nat := 4

/-- FREE VALUE (log entry 2). The level on DIO at the n-th draw (20_memory.md R80): nothing constrains it. -/
opaque Config.oracleBit : Nat → Level

/-- FREE VALUE (log entry 2). The byte a register of the reference peripheral takes where the spec says it becomes a
draw (20_memory.md R90, 70_reset_and_hazards.md R292). -/
opaque Config.freeByte : Nat → Byte

/-- OPEN parameter T_CLK_HIGH (R9, 92 D12). No rule depends on it. -/
opaque Config.tClkHigh : Nat

/-- OPEN parameter T_CLK_LOW (R9, 92 D12). No rule depends on it. -/
opaque Config.tClkLow : Nat

/-- OPEN parameter T_CE_INACTIVE (R9, 92 D12). No rule depends on it. -/
opaque Config.tCeInactive : Nat

end Sys2Proof
end

