-- ==== Sys2Proof/Syntax.lean ====
section
/-! DEFINITION. The instructions: one constructor per row of spec/opcode_table.json. The 36 operations (format op16,
30_encoding.md R102 to R104) are the controller's; the 20 command bytes (format wire_cmd8, 20_memory.md R63,
42_burst_transport.md R150) are the peripheral's, which receives them on the wire. -/

namespace Sys2Proof

/-- One constructor per row of the opcode table. A constructor carries the row's ARG where the operation uses it; where
ARG is don't care (R105) it carries nothing. -/
inductive Instr where
  /-- WRBITS, word 0x01bb (R132). -/
  | wrbits (b : Byte)
  /-- RDBITS, word 0x02xx (R133). -/
  | rdbits
  /-- RDBYTE, word 0x03cc (R144). -/
  | rdbyte (c : Byte)
  /-- WRBYTE, word 0x04cc (R145). -/
  | wrbyte (c : Byte)
  /-- RDBURST.CLOCK, word 0x0500 (R153). -/
  | rdburstClock
  /-- RDBURST.RAM, word 0x0501 (R154). -/
  | rdburstRam
  /-- WRBURST.CLOCK, word 0x0600 (R155). -/
  | wrburstClock
  /-- WRBURST.RAM, word 0x0601 (R156). -/
  | wrburstRam
  /-- RDFIELD.SECOND, word 0x0700 (R172). -/
  | rdfieldSecond
  /-- RDFIELD.MINUTE, word 0x0701 (R173). -/
  | rdfieldMinute
  /-- RDFIELD.HOUR, word 0x0702 (R174). -/
  | rdfieldHour
  /-- RDFIELD.DATE, word 0x0703 (R175). -/
  | rdfieldDate
  /-- RDFIELD.MONTH, word 0x0704 (R176). -/
  | rdfieldMonth
  /-- RDFIELD.WEEKDAY, word 0x0705 (R177). -/
  | rdfieldWeekday
  /-- RDFIELD.YEAR, word 0x0706 (R178). -/
  | rdfieldYear
  /-- RDFIELD.MERIDIEM, word 0x0707 (R179). -/
  | rdfieldMeridiem
  /-- RDFIELD.HOURFORMAT, word 0x0708 (R180). -/
  | rdfieldHourFormat
  /-- RDFIELD.CLOCKHALT, word 0x0709 (R181). -/
  | rdfieldClockHalt
  /-- RDFIELD.WRITEPROTECT, word 0x070A (R182). -/
  | rdfieldWriteProtect
  /-- RDFIELD.RAWHOUR, word 0x070B (R183). -/
  | rdfieldRawHour
  /-- RDFIELD.TRICKLE, word 0x070C (R184). -/
  | rdfieldTrickle
  /-- WRFIELD.SECOND, word 0x0800 (R206). -/
  | wrfieldSecond
  /-- WRFIELD.MINUTE, word 0x0801 (R207). -/
  | wrfieldMinute
  /-- WRFIELD.HOUR, word 0x0802 (R208). -/
  | wrfieldHour
  /-- WRFIELD.DATE, word 0x0803 (R209). -/
  | wrfieldDate
  /-- WRFIELD.MONTH, word 0x0804 (R210). -/
  | wrfieldMonth
  /-- WRFIELD.WEEKDAY, word 0x0805 (R211). -/
  | wrfieldWeekday
  /-- WRFIELD.YEAR, word 0x0806 (R212). -/
  | wrfieldYear
  /-- WRFIELD.MERIDIEM, word 0x0807 (R213). -/
  | wrfieldMeridiem
  /-- WRFIELD.HOURFORMAT, word 0x0808 (R214). -/
  | wrfieldHourFormat
  /-- WRFIELD.CLOCKHALT, word 0x0809 (R215). -/
  | wrfieldClockHalt
  /-- WRFIELD.WRITEPROTECT, word 0x080A (R216). -/
  | wrfieldWriteProtect
  /-- WRFIELD.RAWHOUR, word 0x080B (R217). -/
  | wrfieldRawHour
  /-- WRFIELD.TRICKLE, word 0x080C (R218). -/
  | wrfieldTrickle
  /-- GETTIME, word 0x09xx (R241). -/
  | gettime
  /-- SETTIME, word 0x0Axx (R244). -/
  | settime
  /-- CMD.RD.SECONDS, command byte 0x81 (R63). -/
  | cmdRdSeconds
  /-- CMD.WR.SECONDS, command byte 0x80 (R63). -/
  | cmdWrSeconds
  /-- CMD.RD.MINUTES, command byte 0x83 (R63). -/
  | cmdRdMinutes
  /-- CMD.WR.MINUTES, command byte 0x82 (R63). -/
  | cmdWrMinutes
  /-- CMD.RD.HOUR, command byte 0x85 (R63). -/
  | cmdRdHour
  /-- CMD.WR.HOUR, command byte 0x84 (R63). -/
  | cmdWrHour
  /-- CMD.RD.DATE, command byte 0x87 (R63). -/
  | cmdRdDate
  /-- CMD.WR.DATE, command byte 0x86 (R63). -/
  | cmdWrDate
  /-- CMD.RD.MONTH, command byte 0x89 (R63). -/
  | cmdRdMonth
  /-- CMD.WR.MONTH, command byte 0x88 (R63). -/
  | cmdWrMonth
  /-- CMD.RD.WEEKDAY, command byte 0x8B (R63). -/
  | cmdRdWeekday
  /-- CMD.WR.WEEKDAY, command byte 0x8A (R63). -/
  | cmdWrWeekday
  /-- CMD.RD.YEAR, command byte 0x8D (R63). -/
  | cmdRdYear
  /-- CMD.WR.YEAR, command byte 0x8C (R63). -/
  | cmdWrYear
  /-- CMD.RD.WP, command byte 0x8F (R63). -/
  | cmdRdWp
  /-- CMD.WR.WP, command byte 0x8E (R63). -/
  | cmdWrWp
  /-- CMD.RD.TRICKLE, command byte 0x91 (R63). -/
  | cmdRdTrickle
  /-- CMD.WR.TRICKLE, command byte 0x90 (R63). -/
  | cmdWrTrickle
  /-- CMD.RD.CLOCKBURST, command byte 0xBF (R150). -/
  | cmdRdClockBurst
  /-- CMD.WR.CLOCKBURST, command byte 0xBE (R150). -/
  | cmdWrClockBurst
  deriving DecidableEq, Repr

/-- Why a word or a command byte is no instruction (30_encoding.md R106, R109). -/
inductive Reject where
  /-- OPC is 0x00, or 0x0B or more. -/
  | illegalOpcode
  /-- OPC is 0x05 or 0x06 and ARG is 2 or more. -/
  | illegalBlock
  /-- OPC is 0x07 or 0x08 and ARG is 13 or more. -/
  | illegalField
  /-- A command byte outside the 20 of the map (no error: the peripheral's response is a draw, R109). -/
  | unlistedCommand
  deriving DecidableEq, Repr

end Sys2Proof
end

