-- ==== Sys2Proof/WellFormed.lean ====
section
/-! DEFINITION. Which words are legal (30_encoding.md R106) and which instructions are well formed. The operands of an
instruction are bytes and every byte is admitted (00_scope.md R19, 30_encoding.md R101), so no term of `Instr` is ill
formed; the check that can fail is the one on words. -/

namespace Sys2Proof

/-- R106, stated on the two bytes of the word and independently of the decoder. -/
def illegalWord (opc arg : Byte) : Bool :=
  opc == 0 || decide (0x0B ≤ opc.toNat)
    || ((opc == 0x05 || opc == 0x06) && decide (2 ≤ arg.toNat))
    || ((opc == 0x07 || opc == 0x08) && decide (13 ≤ arg.toNat))

/-- The command bytes of 20_memory.md R63: 0x80 to 0x91 and the clock-burst bytes 0xBE and 0xBF. -/
def listedCommand (c : Byte) : Bool :=
  (decide (0x80 ≤ c.toNat) && decide (c.toNat ≤ 0x91)) || c == 0xBE || c == 0xBF

/-- Whether the operands of an instruction are ones its encoding admits. The only operands are bytes of ARG and no rule
excludes a value of them (R19, R101, R109), so every instruction is well formed. -/
def WellFormed (_ : Instr) : Bool := true

end Sys2Proof
end

