-- ==== Sys2Proof/Decode.lean ====
section
/-! DEFINITION. Decoding of operation words (30_encoding.md R100 to R107) and of command bytes (20_memory.md R62, R63,
42_burst_transport.md R150), total on all 65536 words and all 256 bytes, and the encoder written from the same tables. -/

namespace Sys2Proof

/-- The OPC byte of an operation word (R100). -/
def opcOf (w : OpWord) : Byte := w.extractLsb' 8 8

/-- The ARG byte of an operation word (R100). -/
def argOf (w : OpWord) : Byte := w.extractLsb' 0 8

/-- The operation word `{opc, arg}` (R100). -/
def opWord (opc arg : Byte) : OpWord := opc ++ arg

/-- RDBURST by block id (R104). -/
def decodeRdburst (id : Byte) : Except Reject Instr :=
  match id.toNat with
  | 0 => .ok .rdburstClock
  | 1 => .ok .rdburstRam
  | _ => .error .illegalBlock

/-- WRBURST by block id (R104). -/
def decodeWrburst (id : Byte) : Except Reject Instr :=
  match id.toNat with
  | 0 => .ok .wrburstClock
  | 1 => .ok .wrburstRam
  | _ => .error .illegalBlock

/-- RDFIELD by field id (R103). -/
def decodeRdfield (id : Byte) : Except Reject Instr :=
  match id.toNat with
  | 0 => .ok .rdfieldSecond
  | 1 => .ok .rdfieldMinute
  | 2 => .ok .rdfieldHour
  | 3 => .ok .rdfieldDate
  | 4 => .ok .rdfieldMonth
  | 5 => .ok .rdfieldWeekday
  | 6 => .ok .rdfieldYear
  | 7 => .ok .rdfieldMeridiem
  | 8 => .ok .rdfieldHourFormat
  | 9 => .ok .rdfieldClockHalt
  | 10 => .ok .rdfieldWriteProtect
  | 11 => .ok .rdfieldRawHour
  | 12 => .ok .rdfieldTrickle
  | _ => .error .illegalField

/-- WRFIELD by field id (R103). -/
def decodeWrfield (id : Byte) : Except Reject Instr :=
  match id.toNat with
  | 0 => .ok .wrfieldSecond
  | 1 => .ok .wrfieldMinute
  | 2 => .ok .wrfieldHour
  | 3 => .ok .wrfieldDate
  | 4 => .ok .wrfieldMonth
  | 5 => .ok .wrfieldWeekday
  | 6 => .ok .wrfieldYear
  | 7 => .ok .wrfieldMeridiem
  | 8 => .ok .wrfieldHourFormat
  | 9 => .ok .wrfieldClockHalt
  | 10 => .ok .wrfieldWriteProtect
  | 11 => .ok .wrfieldRawHour
  | 12 => .ok .wrfieldTrickle
  | _ => .error .illegalField

/-- The decode procedure of R107. -/
def decodeWord (w : OpWord) : Except Reject Instr :=
  match (opcOf w).toNat with
  | 0x01 => .ok (.wrbits (argOf w))
  | 0x02 => .ok .rdbits
  | 0x03 => .ok (.rdbyte (argOf w))
  | 0x04 => .ok (.wrbyte (argOf w))
  | 0x05 => decodeRdburst (argOf w)
  | 0x06 => decodeWrburst (argOf w)
  | 0x07 => decodeRdfield (argOf w)
  | 0x08 => decodeWrfield (argOf w)
  | 0x09 => .ok .gettime
  | 0x0A => .ok .settime
  | _ => .error .illegalOpcode

/-- The command bytes the spec lists: the map of 20_memory.md R63 and the clock-burst bytes of R150. -/
def decodeCommand (c : Byte) : Except Reject Instr :=
  match c.toNat with
  | 0x80 => .ok .cmdWrSeconds
  | 0x81 => .ok .cmdRdSeconds
  | 0x82 => .ok .cmdWrMinutes
  | 0x83 => .ok .cmdRdMinutes
  | 0x84 => .ok .cmdWrHour
  | 0x85 => .ok .cmdRdHour
  | 0x86 => .ok .cmdWrDate
  | 0x87 => .ok .cmdRdDate
  | 0x88 => .ok .cmdWrMonth
  | 0x89 => .ok .cmdRdMonth
  | 0x8A => .ok .cmdWrWeekday
  | 0x8B => .ok .cmdRdWeekday
  | 0x8C => .ok .cmdWrYear
  | 0x8D => .ok .cmdRdYear
  | 0x8E => .ok .cmdWrWp
  | 0x8F => .ok .cmdRdWp
  | 0x90 => .ok .cmdWrTrickle
  | 0x91 => .ok .cmdRdTrickle
  | 0xBE => .ok .cmdWrClockBurst
  | 0xBF => .ok .cmdRdClockBurst
  | _ => .error .unlistedCommand

/-- The two formats of the opcode table: an operation word of the host interface, a command byte on the wire. -/
inductive Encoding where
  | op16 (w : OpWord)
  | wireCmd8 (c : Byte)
  deriving DecidableEq, Repr

/-- Decoding of either format. -/
def decode : Encoding → Except Reject Instr
  | .op16 w => decodeWord w
  | .wireCmd8 c => decodeCommand c

/-- The encoding of an instruction (R102 to R105, R63, R150). Where ARG is don't care the encoder takes 0x00, as the
table's `match` does (30_encoding.md R105). -/
def encode : Instr → Encoding
  | .wrbits b => .op16 (opWord 0x01 b)
  | .rdbits => .op16 0x0200
  | .rdbyte c => .op16 (opWord 0x03 c)
  | .wrbyte c => .op16 (opWord 0x04 c)
  | .rdburstClock => .op16 0x0500
  | .rdburstRam => .op16 0x0501
  | .wrburstClock => .op16 0x0600
  | .wrburstRam => .op16 0x0601
  | .rdfieldSecond => .op16 0x0700
  | .rdfieldMinute => .op16 0x0701
  | .rdfieldHour => .op16 0x0702
  | .rdfieldDate => .op16 0x0703
  | .rdfieldMonth => .op16 0x0704
  | .rdfieldWeekday => .op16 0x0705
  | .rdfieldYear => .op16 0x0706
  | .rdfieldMeridiem => .op16 0x0707
  | .rdfieldHourFormat => .op16 0x0708
  | .rdfieldClockHalt => .op16 0x0709
  | .rdfieldWriteProtect => .op16 0x070A
  | .rdfieldRawHour => .op16 0x070B
  | .rdfieldTrickle => .op16 0x070C
  | .wrfieldSecond => .op16 0x0800
  | .wrfieldMinute => .op16 0x0801
  | .wrfieldHour => .op16 0x0802
  | .wrfieldDate => .op16 0x0803
  | .wrfieldMonth => .op16 0x0804
  | .wrfieldWeekday => .op16 0x0805
  | .wrfieldYear => .op16 0x0806
  | .wrfieldMeridiem => .op16 0x0807
  | .wrfieldHourFormat => .op16 0x0808
  | .wrfieldClockHalt => .op16 0x0809
  | .wrfieldWriteProtect => .op16 0x080A
  | .wrfieldRawHour => .op16 0x080B
  | .wrfieldTrickle => .op16 0x080C
  | .gettime => .op16 0x0900
  | .settime => .op16 0x0A00
  | .cmdRdSeconds => .wireCmd8 0x81
  | .cmdWrSeconds => .wireCmd8 0x80
  | .cmdRdMinutes => .wireCmd8 0x83
  | .cmdWrMinutes => .wireCmd8 0x82
  | .cmdRdHour => .wireCmd8 0x85
  | .cmdWrHour => .wireCmd8 0x84
  | .cmdRdDate => .wireCmd8 0x87
  | .cmdWrDate => .wireCmd8 0x86
  | .cmdRdMonth => .wireCmd8 0x89
  | .cmdWrMonth => .wireCmd8 0x88
  | .cmdRdWeekday => .wireCmd8 0x8B
  | .cmdWrWeekday => .wireCmd8 0x8A
  | .cmdRdYear => .wireCmd8 0x8D
  | .cmdWrYear => .wireCmd8 0x8C
  | .cmdRdWp => .wireCmd8 0x8F
  | .cmdWrWp => .wireCmd8 0x8E
  | .cmdRdTrickle => .wireCmd8 0x91
  | .cmdWrTrickle => .wireCmd8 0x90
  | .cmdRdClockBurst => .wireCmd8 0xBF
  | .cmdWrClockBurst => .wireCmd8 0xBE

/-- The instruction read from a row of the opcode table: 16 bits are an operation word, 8 bits a command byte. -/
def decodeTableWord (nbits w : Nat) : Option Instr :=
  if nbits = 16 then (decodeWord (BitVec.ofNat 16 w)).toOption
  else if nbits = 8 then (decodeCommand (BitVec.ofNat 8 w)).toOption
  else none

end Sys2Proof
end

