-- ==== Sys2Proof/Machine/State.lean ====
section
/-! DEFINITION. The state of the machine as plain data, its reset value, and the reasons a step can stop
(spec 10_state.md, 20_memory.md R84 and R85, 70_reset_and_hazards.md R290 and R291). -/

namespace Sys2Proof.Machine

/-- The three lines (R21). -/
inductive Line where
  | ce
  | clk
  | dio
  deriving DecidableEq, Repr

/-- A pad direction (R21): OUT or IN. -/
inductive Dir where
  | output
  | input
  deriving DecidableEq, Repr

/-- DIR and LVL of each line (R21). -/
structure Pads where
  ceDir : Dir
  clkDir : Dir
  dioDir : Dir
  ceLvl : Level
  clkLvl : Level
  dioLvl : Level
  deriving DecidableEq, Repr

/-- The pad state at reset: outputs driving 0 (R21, R291). -/
def Pads.reset : Pads :=
  { ceDir := .output, clkDir := .output, dioDir := .output, ceLvl := false, clkLvl := false, dioLvl := false }

/-- A line event of the trace (R34): `delay` carries its lower bound in microseconds. -/
inductive LineEvent where
  | setDir (l : Line) (d : Dir)
  | setLevel (l : Line) (v : Level)
  | sample (bit : Level)
  | delay (atLeast : Nat)
  deriving DecidableEq, Repr

/-- The nine time-record registers, each a plain byte (R31). -/
structure TimeRecord where
  sec : Byte
  min : Byte
  hour : Byte
  date : Byte
  month : Byte
  year : Byte
  wday : Byte
  fmt : Byte
  mer : Byte
  deriving DecidableEq, Repr

/-- TR_* at reset: 0x00, except TR_MER = 0xFF (unset) (R31). -/
def TimeRecord.reset : TimeRecord :=
  { sec := 0, min := 0, hour := 0, date := 0, month := 0, year := 0, wday := 0, fmt := 0, mer := 0xFF }

/-- The burst buffer BUF[0..30] (R32). -/
abbrev Buffer := Vector Byte 31

/-- BUF at reset (R32). -/
def Buffer.reset : Buffer := Vector.replicate 31 0

/-- The operand snapshot S_ARG, S_DATA, S_TR, S_BUF (R35). -/
structure Snapshot where
  arg : Byte
  data : Byte
  tr : TimeRecord
  buf : Buffer
  deriving DecidableEq, Repr

/-- The cleared snapshot (R290). DESIGN CHOICE (log entry 1), unsafe: R291 gives it no value and no rule reads it before
an acceptance writes it. -/
def Snapshot.cleared : Snapshot :=
  { arg := 0, data := 0
    tr := { sec := 0, min := 0, hour := 0, date := 0, month := 0, year := 0, wday := 0, fmt := 0, mer := 0 }
    buf := Vector.replicate 31 0 }

/-- The sequencer of a running operation (R33): the accepted word, the index of the next line event, and the bits the
operation has sampled so far, oldest first (the partial byte of R131 and the hidden temporary of R201). -/
structure Sequencer where
  word : OpWord
  next : Nat
  samples : List Level
  deriving DecidableEq, Repr

/-- The kind of a frame (20_memory.md R85): Rd, Wr with its data byte, BRd with its byte count, BWr with its data
bytes. -/
inductive FrameKind where
  | rd
  | wr (d : Byte)
  | brd (n : Nat)
  | bwr (ds : List Byte)
  deriving DecidableEq, Repr

/-- An open frame as the peripheral sees it (R85): the command byte and the kind, how many rising clock edges it has
latched (R82), how many samples it has answered, the response bytes it has laid out (`none` is a draw, R86), and whether
it is the peripheral's turn to act on the frame. -/
structure Frame where
  cmd : Byte
  kind : FrameKind
  rises : Nat
  sampled : Nat
  resp : List (Option Byte)
  turn : Bool
  deriving DecidableEq, Repr

/-- What a read command in a write frame does to a reference peripheral, where the spec's files disagree: nothing
(20_memory.md R90, R87, R88), or the addressed register becomes a draw (93_implementation_defined.md U4). DESIGN CHOICE: the
model has both (log entry 21). -/
inductive StrayRead where
  | ignored
  | drawn
  deriving DecidableEq, Repr

/-- The registers of the reference peripheral (R84), and the model's own field that says how it takes a read command in a
write frame; no step changes that one. -/
structure RefPeripheral where
  rpc : Vector Byte 9
  rpr : Vector Byte 31
  strayRead : StrayRead
  deriving DecidableEq, Repr

/-- What is at the far end of the wires: the device, whose every sampled bit is a draw (R80), or the reference
peripheral (R84). -/
inductive Peripheral where
  | device
  | reference (rp : RefPeripheral)
  deriving DecidableEq, Repr

/-- One act of the host: `ld`, `st` (30_encoding.md R111, 20_memory.md R60) or the reset input (R290). The reset input is
one act at one moment, with no interval in which it stays asserted: DESIGN CHOICE, unsafe (log entry 23). -/
inductive HostAct where
  | load (a : Offset)
  | store (a : Offset) (v : Byte)
  | reset
  deriving DecidableEq, Repr

/-- When a host act lands: after that many further steps of the controller (a line event or a completion is one step), or
as soon as BUSY = 0 (the host's `wait`, R111). On an idle block both land at once. -/
inductive When where
  | afterSteps (n : Nat)
  | whenIdle
  deriving DecidableEq, Repr

/-- A host act still to come. -/
structure HostInput where
  moment : When
  act : HostAct
  deriving DecidableEq, Repr

/-- What one `ld` returned to the host. -/
structure HostRead where
  offset : Offset
  value : Byte
  deriving DecidableEq, Repr

/-- Reasons the machine stops. -/
inductive Fault where
  /-- Raised by `step` when the sequencer holds a word that is no legal operation word. No run reaches it: a request is
  accepted only if its word is legal (R26). Safe: the model stops and proves nothing about such a state. -/
  | sequencerWordIllegal (why : Reject)
  deriving DecidableEq, Repr

/-- Reasons an instruction has no meaning. -/
inductive Refusal where
  /-- Raised by `exec` for an instruction that has no meaning in the model yet; no arm raises it now. Safe: the model
  stops where the hardware goes on. -/
  | notModelled (mnemonic : String)
  deriving DecidableEq, Repr

/-- The machine's state. OPC holds no value (R26) and STATUS.BUSY is 1 exactly while the sequencer holds an operation
(R27, R33), so neither has a field of its own. -/
structure State where
  /-- DIR and LVL of the three lines (R21). -/
  pads : Pads
  /-- ARG (R28). -/
  arg : Byte
  /-- DATA (R29). -/
  data : Byte
  /-- RESULT (R30). -/
  result : Byte
  /-- STATUS.OVR (R27). -/
  ovr : Bool
  /-- STATUS.ERR (R27). -/
  err : ErrCode
  /-- TR_* (R31). -/
  tr : TimeRecord
  /-- BUF (R32). -/
  buf : Buffer
  /-- The operand snapshot (R35). -/
  snap : Snapshot
  /-- The sequencer (R33); `none` is idle. -/
  seq : Option Sequencer
  /-- The event trace since reset, oldest event first (R34). -/
  trace : List LineEvent
  /-- The open frame as the peripheral sees it (R85); `none` while CE is low. -/
  frame : Option Frame
  /-- What is at the far end of the wires (R80, R84). -/
  periph : Peripheral
  /-- The model's own: how many free values have been drawn (log entry 2). -/
  draws : Nat
  /-- The model's own: the host acts still to come (log entry 3). -/
  inputs : List HostInput
  /-- The model's own: what the host's loads returned, oldest first (log entry 4). -/
  reads : List HostRead
  /-- The parameters of 00_scope.md R9, and the model's own `dioRest` (log entry 22); no step changes them. -/
  params : Params
  deriving DecidableEq, Repr

/-- The machine right after reset (R290, R291): every register and pad at its reset value, the sequencer idle, the trace
empty, no frame open. The peripheral is the device of R80 (log entry 5), the parameters are the defaults of R9. -/
def State.reset : State :=
  { pads := Pads.reset, arg := 0, data := 0, result := 0, ovr := false, err := 0
    tr := TimeRecord.reset, buf := Buffer.reset, snap := Snapshot.cleared, seq := none, trace := []
    frame := none, periph := .device, draws := 0, inputs := [], reads := [], params := Params.defaults }

end Sys2Proof.Machine
end

