-- ==== Sys2Proof/Machine/Flags.lean ====
section
/-! DEFINITION. STATUS and the error codes (10_state.md R27, 60_exceptions.md R261) and the validation of a time record
(45_timerecord.md R242). The block has no other flags (10_state.md R37). -/

namespace Sys2Proof.Machine

/-- STATUS.BUSY: 1 while the sequencer holds an operation (R27, R33). -/
def State.busy (s : State) : Bool := s.seq.isSome

/-- STATUS as the host reads it: ERR in bits 7:4, bits 3:2 read 0, OVR in bit 1, BUSY in bit 0 (R27). -/
def State.status (s : State) : Byte :=
  s.err ++ (0 : BitVec 2) ++ BitVec.ofBool s.ovr ++ BitVec.ofBool s.busy

/-- 0x0 OK (R261). -/
def errOk : ErrCode := 0x0

/-- 0x1 ERR_FORMAT (R261). -/
def errFormat : ErrCode := 0x1

/-- 0x2 ERR_SECOND (R261). -/
def errSecond : ErrCode := 0x2

/-- 0x3 ERR_MINUTE (R261). -/
def errMinute : ErrCode := 0x3

/-- 0x4 ERR_HOUR (R261). -/
def errHour : ErrCode := 0x4

/-- 0x5 ERR_DATE (R261). -/
def errDate : ErrCode := 0x5

/-- 0x6 ERR_MONTH (R261). -/
def errMonth : ErrCode := 0x6

/-- 0x7 ERR_YEAR (R261). -/
def errYear : ErrCode := 0x7

/-- 0x8 ERR_WEEKDAY (R261). -/
def errWeekday : ErrCode := 0x8

/-- 0x9 ERR_MERIDIEM (R261). -/
def errMeridiem : ErrCode := 0x9

/-- 0xF ERR_ILLEGAL (R261). -/
def errIllegal : ErrCode := 0xF

/-- The first failing check of the record, in the order of R242, or OK. Upper bounds only (90_conflicts.md C2). -/
def validate (r : TimeRecord) : ErrCode :=
  if r.fmt ≠ 0 ∧ r.fmt ≠ 1 then errFormat
  else if 59 < r.sec.toNat then errSecond
  else if 59 < r.min.toNat then errMinute
  else if r.fmt = 1 ∧ 12 < r.hour.toNat then errHour
  else if r.fmt = 0 ∧ 23 < r.hour.toNat then errHour
  else if 31 < r.date.toNat then errDate
  else if 12 < r.month.toNat then errMonth
  else if 99 < r.year.toNat then errYear
  else if 7 < r.wday.toNat then errWeekday
  else if r.fmt = 1 ∧ r.mer ≠ 0 ∧ r.mer ≠ 1 then errMeridiem
  else errOk

end Sys2Proof.Machine
end

