-- ==== Sys2Proof/Machine/Operands.lean ====
section
/-! DEFINITION. The host registers by offset (10_state.md R24, R25), the operand snapshot (R35) and what a completed
operation writes (R30 to R32). -/

namespace Sys2Proof.Machine

/-- BUF[k], for k in 0..30 (R32). -/
def Buffer.byte (b : Buffer) (k : Nat) : Byte := (b[k]?).getD 0

/-- BUF with byte k set, for k in 0..30 (R32). -/
def Buffer.put (b : Buffer) (k : Nat) (v : Byte) : Buffer := b.setIfInBounds k v

/-- BUF with the bytes `vs` at k, k + 1, and so on; the other bytes unchanged (R32). -/
def Buffer.putFrom (b : Buffer) (k : Nat) : List Byte → Buffer
  | [] => b
  | v :: vs => Buffer.putFrom (b.put k v) (k + 1) vs

/-- The first `n` bytes of the buffer, in ascending order (20_memory.md R68). -/
def Buffer.firstBytes (b : Buffer) (n : Nat) : List Byte := b.toList.take n

/-- What a host load of offset `a` returns (R24, R25): OPC and every reserved offset read 0x00. -/
def State.hostReg (s : State) (a : Offset) : Byte :=
  match a.toNat with
  | 0x01 => s.arg
  | 0x02 => s.data
  | 0x03 => s.result
  | 0x04 => s.status
  | 0x06 => s.tr.sec
  | 0x07 => s.tr.min
  | 0x08 => s.tr.hour
  | 0x09 => s.tr.date
  | 0x0A => s.tr.month
  | 0x0B => s.tr.year
  | 0x0C => s.tr.wday
  | 0x0D => s.tr.fmt
  | 0x0E => s.tr.mer
  | n => if 0x10 ≤ n ∧ n ≤ 0x2E then s.buf.byte (n - 0x10) else 0

/-- A host store to an offset other than OPC only stores the byte (20_memory.md R61); a store to RESULT, STATUS or a
reserved offset is ignored (R25). OPC itself is `State.request`. -/
def State.storeReg (s : State) (a : Offset) (v : Byte) : State :=
  match a.toNat with
  | 0x01 => { s with arg := v }
  | 0x02 => { s with data := v }
  | 0x06 => { s with tr := { s.tr with sec := v } }
  | 0x07 => { s with tr := { s.tr with min := v } }
  | 0x08 => { s with tr := { s.tr with hour := v } }
  | 0x09 => { s with tr := { s.tr with date := v } }
  | 0x0A => { s with tr := { s.tr with month := v } }
  | 0x0B => { s with tr := { s.tr with year := v } }
  | 0x0C => { s with tr := { s.tr with wday := v } }
  | 0x0D => { s with tr := { s.tr with fmt := v } }
  | 0x0E => { s with tr := { s.tr with mer := v } }
  | n => if 0x10 ≤ n ∧ n ≤ 0x2E then { s with buf := s.buf.put (n - 0x10) v } else s

/-- The operand snapshot of the host registers as they stand (R35). -/
def State.operands (s : State) : Snapshot :=
  { arg := s.arg, data := s.data, tr := s.tr, buf := s.buf }

/-- How an operation ends: what its rule says it writes at completion (60_exceptions.md R277), or the code it raises
(R260). -/
inductive OpResult where
  | done
  | value (v : Byte)
  | record (r : TimeRecord)
  | bytes (bs : List Byte)
  | failed (code : ErrCode)
  deriving DecidableEq, Repr

/-- STATUS.ERR after an operation that ends so (R260, R261). -/
def OpResult.code : OpResult → ErrCode
  | .failed code => code
  | _ => errOk

/-- The result registers as an operation that ends so leaves them (R30 to R32, R260). -/
def State.writeResult (s : State) : OpResult → State
  | .done => s
  | .value v => { s with result := v }
  | .record r => { s with tr := r }
  | .bytes bs => { s with buf := s.buf.putFrom 0 bs }
  | .failed _ => s

end Sys2Proof.Machine
end

