-- ==== Sys2Proof/Machine/Codec.lean ====
section
/-! DEFINITION. The register codec: BCD and flag conversion, merge, hour encoders and format conversions
(43_codec_read.md R170, R171, 44_codec_write.md R200 to R205), and the decode of each field (R172 to R184). -/

namespace Sys2Proof.Machine

/-- `bit(raw, i) = (raw >> i) & 1` (R171). -/
def bit (raw : Byte) (i : Nat) : Byte := (raw >>> i) &&& 1

/-- BCD decode with tens mask `m` (R170), computed on natural numbers (00_scope.md R10). -/
def dec (raw m : Byte) : Byte :=
  BitVec.ofNat 8 (10 * ((raw >>> 4) &&& m).toNat + (raw &&& 0xF).toNat)

/-- BCD encode, truncated to 8 bits (R200). -/
def bcd (v : Byte) : Byte := BitVec.ofNat 8 (((v.toNat / 10) <<< 4) ||| (v.toNat % 10))

/-- The bits of `raw` outside the value mask, the bits of `p` inside it (R203). -/
def merge (raw p mask : Byte) : Byte := (raw &&& ~~~mask) ||| (p &&& mask)

/-- The 24 h hour byte (R204). -/
def enc24 (v : Byte) : Byte := bcd v &&& 0x3F

/-- The 12 h hour byte for hour `h` and meridiem `m` (R204). -/
def enc12 (h m : Byte) : Byte := 0x80 ||| (m <<< 5) ||| (bcd h &&& 0x1F)

/-- 24 h to 12 h: (hour, meridiem) (R205). -/
def to12 (h24 : Byte) : Byte × Byte := if 12 < h24.toNat then (h24 - 12, 1) else (h24, 0)

/-- 12 h to 24 h (R205). -/
def to24 (h12 m : Byte) : Byte := h12 + 12 * m

/-- Second (R172). -/
def decodeSecond (raw : Byte) : Byte := dec raw 0x7

/-- Minute (R173). -/
def decodeMinute (raw : Byte) : Byte := dec raw 0x7

/-- Hour in the format the byte holds (R174). -/
def decodeHour (raw : Byte) : Byte := if bit raw 7 = 0 then dec raw 0x3 else dec raw 0x1

/-- Date (R175). -/
def decodeDate (raw : Byte) : Byte := dec raw 0x3

/-- Month (R176). -/
def decodeMonth (raw : Byte) : Byte := dec raw 0x1

/-- Weekday (R177). -/
def decodeWeekday (raw : Byte) : Byte := raw

/-- Year (R178). -/
def decodeYear (raw : Byte) : Byte := dec raw 0xF

/-- Meridiem (R179). -/
def decodeMeridiem (raw : Byte) : Byte := bit raw 5

/-- HourFormat (R180). -/
def decodeHourFormat (raw : Byte) : Byte := bit raw 7

/-- ClockHalt (R181). -/
def decodeClockHalt (raw : Byte) : Byte := bit raw 7

/-- WriteProtect (R182). -/
def decodeWriteProtect (raw : Byte) : Byte := bit raw 7

/-- RawHourRegister (R183). -/
def decodeRawHour (raw : Byte) : Byte := raw

/-- TrickleChargeRegister (R184). -/
def decodeTrickle (raw : Byte) : Byte := raw

/-- The hour WRFIELD.HOUR encodes in 12 h format: above 12, 12 is subtracted once (R208, 90_conflicts.md C6). -/
def hour12Of (v : Byte) : Byte := if 12 < v.toNat then v - 12 else v

end Sys2Proof.Machine
end

