-- ==== Sys2Proof/Machine/Peripheral.lean ====
section
/-! DEFINITION. The peripheral's side of a frame (20_memory.md R80 to R91): the reference peripheral's response and
writes, the direction mismatch, and what a frame cut by reset leaves (70_reset_and_hazards.md R292). -/

namespace Sys2Proof.Machine

/-- The register index `cmd[5:1]` (R62). -/
def cmdIdx (c : Byte) : Nat := (c.extractLsb' 1 5).toNat

/-- The bits `cmd[7:6]` (R85). -/
def cmdSpace (c : Byte) : Nat := (c.extractLsb' 6 2).toNat

/-- `cmd[0] = 1` selects a read (R62). -/
def cmdReads (c : Byte) : Bool := bit c 0 == 1

/-- How many bytes the block drives in a frame of this kind, the command byte included (R85). -/
def FrameKind.bytesOut : FrameKind → Nat
  | .rd => 1
  | .wr _ => 2
  | .brd _ => 1
  | .bwr ds => 1 + ds.length

/-- How many bytes the block reads in a frame of this kind (R86). -/
def FrameKind.bytesIn : FrameKind → Nat
  | .rd => 1
  | .wr _ => 0
  | .brd n => n
  | .bwr _ => 0

/-- RPC[i]. -/
def RefPeripheral.reg (rp : RefPeripheral) (i : Nat) : Byte := (rp.rpc[i]?).getD 0

/-- RPR[i]. -/
def RefPeripheral.ram (rp : RefPeripheral) (i : Nat) : Byte := (rp.rpr[i]?).getD 0

/-- RPC[i] set. -/
def RefPeripheral.setReg (rp : RefPeripheral) (i : Nat) (v : Byte) : RefPeripheral :=
  { rp with rpc := rp.rpc.setIfInBounds i v }

/-- RPR[i] set. -/
def RefPeripheral.setRam (rp : RefPeripheral) (i : Nat) (v : Byte) : RefPeripheral :=
  { rp with rpr := rp.rpr.setIfInBounds i v }

/-- WP = 0: `RPC[7][7] = 0` (R87). -/
def RefPeripheral.writable (rp : RefPeripheral) : Bool := bit (rp.reg 7) 7 == 0

/-- Response byte k of a read frame with command `c`; `none` is a draw (R86). -/
def RefPeripheral.respByte (rp : RefPeripheral) (c : Byte) (k : Nat) : Option Byte :=
  if cmdReads c = false then none
  else if cmdSpace c = 0b10 ∧ cmdIdx c ≤ 8 ∧ k = 0 then some (rp.reg (cmdIdx c))
  else if cmdSpace c = 0b10 ∧ cmdIdx c = 31 ∧ k ≤ 8 then some (rp.reg k)
  else if cmdSpace c = 0b11 ∧ cmdIdx c ≤ 30 ∧ k = 0 then some (rp.ram (cmdIdx c))
  else if cmdSpace c = 0b11 ∧ cmdIdx c = 31 ∧ k ≤ 30 then some (rp.ram k)
  else none

/-- The gate on a write to index `i`: index 7 is always taken, any other index only while WP = 0 (R87, R88). -/
def RefPeripheral.gate (rp : RefPeripheral) (i : Nat) : Bool := i == 7 || rp.writable

/-- The single-register write `Wr(c, d)` (R87). The RAM space has the same gate, index 7 included: "The same holds".
DEDUCED (log entry 6). A command that is no such write changes nothing. -/
def RefPeripheral.write (rp : RefPeripheral) (c d : Byte) : RefPeripheral :=
  if cmdReads c = true then rp
  else if cmdSpace c = 0b10 ∧ cmdIdx c ≤ 8 then
    if rp.gate (cmdIdx c) = true then rp.setReg (cmdIdx c) d else rp
  else if cmdSpace c = 0b11 ∧ cmdIdx c ≤ 30 then
    if rp.gate (cmdIdx c) = true then rp.setRam (cmdIdx c) d else rp
  else rp

/-- The clock bytes of a burst write from byte k on; each byte meets the gate as it stands when it completes (R88). -/
def RefPeripheral.burstClock (rp : RefPeripheral) (k : Nat) : List Byte → RefPeripheral
  | [] => rp
  | d :: ds =>
    RefPeripheral.burstClock (if k ≤ 8 ∧ rp.gate k = true then rp.setReg k d else rp) (k + 1) ds

/-- The RAM bytes of a burst write from byte k on, under the same gate (R88). DEDUCED (log entry 6). -/
def RefPeripheral.burstRam (rp : RefPeripheral) (k : Nat) : List Byte → RefPeripheral
  | [] => rp
  | d :: ds =>
    RefPeripheral.burstRam (if k ≤ 30 ∧ rp.gate k = true then rp.setRam k d else rp) (k + 1) ds

/-- The burst write `BWr(c, ds)` (R88). -/
def RefPeripheral.burstWrite (rp : RefPeripheral) (c : Byte) (ds : List Byte) : RefPeripheral :=
  if cmdReads c = true then rp
  else if cmdSpace c = 0b10 ∧ cmdIdx c = 31 then rp.burstClock 0 ds
  else if cmdSpace c = 0b11 ∧ cmdIdx c = 31 then rp.burstRam 0 ds
  else rp

/-- `n` free bytes starting at draw `d`. -/
def freeBytes (d n : Nat) : List Byte := (List.range n).map fun k => Config.freeByte (d + k)

/-- A write command in a read frame of `n` bytes is taken as a write of `n` drawn bytes (R90). DEDUCED (log entry 7) for
a burst command and for a burst frame. -/
def RefPeripheral.mismatch (rp : RefPeripheral) (c : Byte) (n d : Nat) : RefPeripheral :=
  if cmdIdx c = 31 then rp.burstWrite c (freeBytes d n) else rp.write c (Config.freeByte d)

/-- The frame, the peripheral and the count of draws after the peripheral has acted on a command byte. -/
structure Reaction where
  frame : Frame
  periph : Peripheral
  draws : Nat
  deriving DecidableEq, Repr

/-- The write command of the register a command byte addresses (R62). -/
def asWrite (c : Byte) : Byte := c &&& 0xFE

/-- A read command in a write frame of `n` data bytes (log entry 21): ignored (R90), or the registers the command addresses
become draws under the gate of a write (93_implementation_defined.md U4, which cites R90). -/
def RefPeripheral.stray (rp : RefPeripheral) (c : Byte) (f : Frame) (n d : Nat) : Reaction :=
  match rp.strayRead with
  | .ignored => { frame := { f with turn := false }, periph := .reference rp, draws := d }
  | .drawn =>
    { frame := { f with turn := false }, periph := .reference (rp.mismatch (asWrite c) n d), draws := d + n }

/-- The reference peripheral acts on command byte `c` in frame `f`: a read frame lays out the response (R86), or takes
the mismatched write (R90); a write frame is taken (R87, R88), or its command is a read command. -/
def RefPeripheral.act (rp : RefPeripheral) (c : Byte) (f : Frame) (d : Nat) : Reaction :=
  match f.kind with
  | .wr v =>
    if cmdReads c = true then rp.stray c f 1 d
    else { frame := { f with turn := false }, periph := .reference (rp.write c v), draws := d }
  | .bwr vs =>
    if cmdReads c = true then rp.stray c f vs.length d
    else { frame := { f with turn := false }, periph := .reference (rp.burstWrite c vs), draws := d }
  | kind =>
    if cmdReads c = true then
      { frame := { f with turn := false, resp := (List.range kind.bytesIn).map (rp.respByte c) }
        periph := .reference rp, draws := d }
    else
      { frame := { f with turn := false }
        periph := .reference (rp.mismatch c kind.bytesIn d), draws := d + kind.bytesIn }

/-- The peripheral acts on command byte `c` in frame `f`. The device's actions are invisible to the block: every sample
of the frame is a draw (R80). -/
def Peripheral.act (p : Peripheral) (c : Byte) (f : Frame) (d : Nat) : Reaction :=
  match p with
  | .device => { frame := { f with turn := false }, periph := .device, draws := d }
  | .reference rp => rp.act c f d

/-- The peripheral acts on command byte `c` in the open frame; outside a frame a command byte has no effect (R85). -/
def State.takeCommand (s : State) (c : Byte) : State :=
  match s.frame with
  | none => s
  | some f =>
    let r := s.periph.act c f s.draws
    { s with frame := some r.frame, periph := r.periph, draws := r.draws }

/-- Register `i` of the space that command `c` addresses becomes draw `d`; no such register, no change. -/
def RefPeripheral.freeAt (rp : RefPeripheral) (c : Byte) (i d : Nat) : RefPeripheral :=
  if cmdSpace c = 0b10 ∧ i ≤ 8 then rp.setReg i (Config.freeByte d)
  else if cmdSpace c = 0b11 ∧ i ≤ 30 then rp.setRam i (Config.freeByte d)
  else rp

/-- Every register of the block that a burst command `c` addresses becomes a draw, from draw `d` on; a command that is no
burst command changes nothing. -/
def RefPeripheral.freeBlock (rp : RefPeripheral) (c : Byte) (d : Nat) : RefPeripheral :=
  if cmdSpace c = 0b10 ∧ cmdIdx c = 31 then
    { rp with rpc := Vector.ofFn fun i : Fin 9 => Config.freeByte (d + i.val) }
  else if cmdSpace c = 0b11 ∧ cmdIdx c = 31 then
    { rp with rpr := Vector.ofFn fun i : Fin 31 => Config.freeByte (d + i.val) }
  else rp

/-- A write frame with read command `c` is cut: what `RefPeripheral.stray` could have written becomes draws (log entry 21),
that is nothing where such a command is ignored, else the addressed register, or for a burst command the block, of which a
single write frame (`burst = false`) reaches the first register only. -/
def RefPeripheral.cutStray (rp : RefPeripheral) (c : Byte) (burst : Bool) (d : Nat) : RefPeripheral :=
  match rp.strayRead with
  | .ignored => rp
  | .drawn =>
    if cmdIdx c = 31 then
      if burst = true then rp.freeBlock c d else rp.freeAt c 0 d
    else rp.freeAt c (cmdIdx c) d

/-- The registers a cut write frame could have written become draws: the addressed register of a single write, the block of
a burst write; a cut read frame leaves them (R292, log entry 12). -/
def RefPeripheral.cut (rp : RefPeripheral) (f : Frame) (d : Nat) : RefPeripheral :=
  match f.kind with
  | .rd => rp
  | .brd _ => rp
  | .wr _ => if cmdReads f.cmd = true then rp.cutStray f.cmd false d else rp.freeAt f.cmd (cmdIdx f.cmd) d
  | .bwr _ => if cmdReads f.cmd = true then rp.cutStray f.cmd true d else rp.freeBlock f.cmd d

/-- The peripheral after a frame is cut by reset (R292, R293). -/
def Peripheral.cut (p : Peripheral) (frame : Option Frame) (d : Nat) : Peripheral :=
  match p, frame with
  | .reference rp, some f => .reference (rp.cut f d)
  | p, _ => p

/-- How many free bytes a cut takes. -/
def cutDraws : Option Frame → Nat
  | some _ => 31
  | none => 0

end Sys2Proof.Machine
end

