-- ==== Sys2Proof/Machine/Ops.lean ====
section
/-! DEFINITION. The primitives of 00_scope.md R11 on the state, the rule of an operation as a tree of those primitives
and how the sequencer runs it (10_state.md R33), acceptance and rejection of a request (R26), completion and
`raise Error` (60_exceptions.md R260, R277), the host's acts and reset (70_reset_and_hazards.md R290 to R293). -/

namespace Sys2Proof.Machine

/-! ### The host's moment -/

/-- A host act is due now, although an operation is running. -/
def State.hostDue (s : State) : Bool :=
  match s.inputs with
  | ⟨.afterSteps 0, _⟩ :: _ => true
  | _ => false

/-- One controller step passes for the next host act. -/
def countDown : List HostInput → List HostInput
  | ⟨.afterSteps (n + 1), act⟩ :: rest => ⟨.afterSteps n, act⟩ :: rest
  | inputs => inputs

/-- No host act lands inside a running operation: the host has nothing to do, or waits for BUSY = 0. -/
def State.quiet (s : State) : Bool :=
  match s.inputs with
  | ⟨.afterSteps _, _⟩ :: _ => false
  | _ => true

/-! ### The primitives of R11 -/

/-- Append one line event to the trace (R34) and advance the sequencer past it (R33). -/
def State.emit (s : State) (e : LineEvent) : State :=
  { s with
    trace := s.trace ++ [e]
    seq := s.seq.map fun q => { q with next := q.next + 1 }
    inputs := countDown s.inputs }

/-- The peripheral acts first if the last event completed a command byte or a write frame (R85, R82). -/
def State.settle (s : State) : State :=
  match s.frame with
  | some f => if f.turn then s.takeCommand f.cmd else s
  | none => s

/-- Pad direction set (R21). -/
def Pads.setDir (p : Pads) (d : Dir) : Line → Pads
  | .ce => { p with ceDir := d }
  | .clk => { p with clkDir := d }
  | .dio => { p with dioDir := d }

/-- Pad level set (R21). -/
def Pads.setLevel (p : Pads) (v : Level) : Line → Pads
  | .ce => { p with ceLvl := v }
  | .clk => { p with clkLvl := v }
  | .dio => { p with dioLvl := v }

/-- What a level change does to the open frame: CE low closes it (R22); a rising clock edge is latched (R82), and the
edge that completes the last byte the block drives gives the peripheral its turn. -/
def Frame.see (f : Frame) (p : Pads) (v : Level) : Line → Option Frame
  | .ce => if v then some f else none
  | .clk =>
    if v && !p.clkLvl then
      some { f with rises := f.rises + 1, turn := f.rises + 1 == 8 * f.kind.bytesOut }
    else some f
  | .dio => some f

/-- `SetDir(line, d)` (R11). -/
def State.setDir (s : State) (l : Line) (d : Dir) : State :=
  let t := s.settle
  State.emit { t with pads := t.pads.setDir d l } (.setDir l d)

/-- `SetLevel(line, v)` (R11). -/
def State.setLevel (s : State) (l : Line) (v : Level) : State :=
  let t := s.settle
  State.emit
    { t with pads := t.pads.setLevel v l, frame := t.frame.bind fun f => f.see t.pads v l }
    (.setLevel l v)

/-- `SetLevel(CE, 1)` of a frame whose command byte and kind the rule fixes (R22, R85). -/
def State.openFrame (s : State) (c : Byte) (kind : FrameKind) : State :=
  let t := s.settle
  State.emit
    { t with
      pads := t.pads.setLevel true .ce
      frame := some { cmd := c, kind := kind, rises := 0, sampled := 0, resp := [], turn := false } }
    (.setLevel .ce true)

/-- `Delay(t)`: an event with a lower bound (R11, R271). -/
def State.wait (s : State) (atLeast : Nat) : State :=
  State.emit s.settle (.delay atLeast)

/-- The bit the peripheral has laid out for the next sample of the open frame, if any: sample j = 8k + i of a frame is
bit i of response byte k (R85). -/
def Frame.laidOut (f : Frame) : Option Level :=
  (f.resp.getD (f.sampled / 8) none).map fun b => b.getLsbD (f.sampled % 8)

/-- The bit laid out for the next sample; `none` outside a frame and wherever the response is a draw. -/
def State.laidOut (s : State) : Option Level := s.frame.bind Frame.laidOut

/-- The level `Sample(DIO)` returns: a draw unless the reference peripheral has laid out the bit (R80, R85). -/
def State.dioLevel (s : State) : Level := s.laidOut.getD (Config.oracleBit s.draws)

/-- `Sample(DIO)` returned `b` (R11): the event, the sequencer's record of the bit, the frame's count of samples, and one
draw used where the bit was free. -/
def State.sampled (s : State) (b : Level) : State :=
  let t := State.emit s (.sample b)
  { t with
    seq := t.seq.map fun q => { q with samples := q.samples ++ [b] }
    frame := t.frame.map fun f => { f with sampled := f.sampled + 1 }
    draws := if s.laidOut.isSome then t.draws else t.draws + 1 }

/-! ### Rules as trees of primitives -/

/-- The rule of an operation: its primitives in pseudocode order (R11, R12), the rest of the rule after a sample a
function of the bit; at the leaf, how the operation ends. -/
inductive Prog (α : Type) where
  | ret (a : α)
  | setDir (l : Line) (d : Dir) (rest : Prog α)
  | setLevel (l : Line) (v : Level) (rest : Prog α)
  | openFrame (c : Byte) (kind : FrameKind) (rest : Prog α)
  | delay (atLeast : Nat) (rest : Prog α)
  | sample (rest : Level → Prog α)

/-- The rest of a rule after its first `n` events, given the bits those events sampled, oldest first: where the
sequencer stands (R33). -/
def Prog.resume {α : Type} : Prog α → Nat → List Level → Prog α
  | p, 0, _ => p
  | .ret a, _ + 1, _ => .ret a
  | .setDir _ _ k, n + 1, bs => Prog.resume k n bs
  | .setLevel _ _ k, n + 1, bs => Prog.resume k n bs
  | .openFrame _ _ k, n + 1, bs => Prog.resume k n bs
  | .delay _ k, n + 1, bs => Prog.resume k n bs
  | .sample k, n + 1, b :: bs => Prog.resume (k b) n bs
  | .sample k, _ + 1, [] => .sample k

/-- An operation ends in one step: its results are written, STATUS.ERR is written, BUSY goes to 0 (R277; R260 where it
raised an error). -/
def State.complete (s : State) (r : OpResult) : State :=
  { s.writeResult r with err := r.code, seq := none, inputs := countDown s.inputs }

/-- DIO goes low before the completion: it is an output driven high, and it rests low between operations (R275, log
entry 22). -/
def State.lowersDio (s : State) : Bool :=
  s.params.dioRest == .low && s.pads.dioDir == .output && s.pads.dioLvl

/-- The controller at the end of a rule: the completion, before which an operation that raised no error brings DIO to rest by
an event of its own (R21, R33; R260 allows none after an error). -/
def State.finish (s : State) (r : OpResult) : State :=
  if r.code = errOk ∧ s.lowersDio = true then
    let t := s.setLevel .dio false
    if t.hostDue then t else t.complete r
  else s.complete r

/-- `raise Error(code)` (R260): the rule ends at once, with no further line event and no result. -/
def raiseError (code : ErrCode) : Prog OpResult := .ret (.failed code)

/-- The controller runs the rule, one event a step and the completion as the last step (R33, R277), until the operation
is complete or a host act is due. -/
def Prog.advance : Prog OpResult → State → State
  | .ret r, s => if s.hostDue then s else s.finish r
  | .setDir l d k, s => if s.hostDue then s else k.advance (s.setDir l d)
  | .setLevel l v k, s => if s.hostDue then s else k.advance (s.setLevel l v)
  | .openFrame c kind k, s => if s.hostDue then s else k.advance (s.openFrame c kind)
  | .delay n k, s => if s.hostDue then s else k.advance (s.wait n)
  | .sample k, s =>
    if s.hostDue then s else (k s.settle.dioLevel).advance (s.settle.sampled s.settle.dioLevel)

/-- The controller goes on with the operation whose rule is `rule`, from where the sequencer stands, with the operands of
the snapshot (R33, R35). -/
def State.operate (s : State) (rule : Params → Snapshot → Prog OpResult) :
    Host.Outcome State Fault Refusal :=
  let p := rule s.params s.snap
  .next <|
    match s.seq with
    | some q => (p.resume q.next q.samples).advance s
    | none => p.advance s

/-! ### Requests -/

/-- A legal request is accepted: OVR and ERR cleared, BUSY set, the snapshot taken (R26, R35), the sequencer at the
rule's first event (R33). -/
def State.accept (s : State) (w : OpWord) : State :=
  { s with
    ovr := false, err := errOk
    seq := some { word := w, next := 0, samples := [] }
    snap := s.operands }

/-- A host store of `v` to OPC (R26): dropped with OVR set while BUSY = 1 (R264), rejected with ERR_ILLEGAL if the word
is illegal (R262), else accepted, in that order (R266). -/
def State.request (s : State) (v : Byte) : State :=
  if s.busy then { s with ovr := true }
  else
    match decodeWord (opWord v s.arg) with
    | .error _ => { s with ovr := false, err := errIllegal }
    | .ok _ => s.accept (opWord v s.arg)

/-! ### The host's acts -/

/-- `st` (R60, R61). -/
def State.hostStore (s : State) (a : Offset) (v : Byte) : State :=
  if a = 0 then s.request v else s.storeReg a v

/-- `ld` (R60, R61): the value goes to the host and nothing of the block changes. -/
def State.hostLoad (s : State) (a : Offset) : State :=
  { s with reads := s.reads ++ [{ offset := a, value := s.hostReg a }] }

/-- The reset input (R290 to R293): every block register and pad takes its reset value, the running operation is
abandoned, the trace is emptied; the peripheral is not reset, but a frame cut short leaves draws. It happens at one moment
(DESIGN CHOICE, unsafe, log entry 23). -/
def State.blockReset (s : State) : State :=
  { State.reset with
    periph := s.periph.cut s.frame s.draws
    draws := s.draws + cutDraws s.frame
    inputs := s.inputs, reads := s.reads, params := s.params }

/-- The host's next act, if it has one; with none the block idles (R290). -/
def State.hostAct (s : State) : State :=
  match s.inputs with
  | [] => s
  | i :: rest =>
    let t := { s with inputs := rest }
    match i.act with
    | .load a => t.hostLoad a
    | .store a v => t.hostStore a v
    | .reset => t.blockReset

/-! ### Whose step it is -/

/-- The agent that moves next (R4). -/
inductive Turn where
  | peripheral (c : Byte)
  | controller (w : OpWord)
  | host
  deriving DecidableEq, Repr

/-- Whose step it is: the peripheral's if it holds a command byte it has not acted on, else a due host act, else the
controller's while an operation runs, else the host's. -/
def State.turn (s : State) : Turn :=
  match s.frame.filter (·.turn) with
  | some f => .peripheral f.cmd
  | none =>
    match s.seq with
    | some q => if s.hostDue then .host else .controller q.word
    | none => .host

/-- The kind of frame in which the block sends a listed command byte: a burst frame of ClockBlock for the clock-burst
commands (R150), else a single-byte frame by bit 0 (R62), with data bytes of zero. -/
def frameFor (c : Byte) : FrameKind :=
  if c = Config.cmdBurstRd then .brd Config.nClockBlock
  else if c = Config.cmdBurstWr then .bwr (List.replicate Config.nClockBlock 0)
  else if cmdReads c then .rd
  else .wr 0

/-- The open frame in which the peripheral has just received command byte `c` and, in a write frame, its data. -/
def frameAwaiting (c : Byte) : Frame :=
  { cmd := c, kind := frameFor c, rises := 8 * (frameFor c).bytesOut, sampled := 0, resp := [], turn := true }

end Sys2Proof.Machine
end

