-- ==== Sys2Proof/Machine/Transport.lean ====
section
/-! DEFINITION. The line sequences the rules call (00_scope.md R12): ShiftOut, ShiftIn, LineInit, FrameOpen, the byte and
burst transfers, the write-protect guard and WpWrite (40_bit_transport.md R130, R131, 41_byte_transport.md R140 to R143,
42_burst_transport.md R150 to R152, 44_codec_write.md R201, R202). Each takes the rest of the rule as its last
argument. -/

namespace Sys2Proof.Machine

variable {α : Type}

/-- Bits i to i + n - 1 of ShiftOut (R130). -/
def shiftOutBits (b : Byte) (i : Nat) : Nat → Prog α → Prog α
  | 0, rest => rest
  | n + 1, rest =>
    .setLevel .dio (b.getLsbD i) <| .setLevel .clk true <| .setLevel .clk false <|
      shiftOutBits b (i + 1) n rest

/-- ShiftOut(b), least significant bit first (R130, R67). -/
def shiftOut (b : Byte) (rest : Prog α) : Prog α := shiftOutBits b 0 8 rest

/-- One read clock and its sample, in the order SAMPLE_PHASE says (R131, R81). -/
def clockedSample (ph : SamplePhase) (rest : Level → Prog α) : Prog α :=
  match ph with
  | .afterFall => .setLevel .clk true <| .setLevel .clk false <| .sample rest
  | .beforeRise => .sample fun b => .setLevel .clk true <| .setLevel .clk false <| rest b

/-- Samples i to i + n - 1 of ShiftIn, with the bits below i in `v` (R131). -/
def shiftInBits (ph : SamplePhase) (i : Nat) (v : Byte) : Nat → (Byte → Prog α) → Prog α
  | 0, rest => rest v
  | n + 1, rest =>
    clockedSample ph fun b =>
      shiftInBits ph (i + 1) (v ||| ((BitVec.ofBool b).setWidth 8 <<< i)) n rest

/-- ShiftIn(), least significant bit first (R131, R67). -/
def shiftIn (ph : SamplePhase) (rest : Byte → Prog α) : Prog α := shiftInBits ph 0 0 8 rest

/-- `n` consecutive ShiftIn, the bytes in order (R151, R68). -/
def shiftInBytes (ph : SamplePhase) : Nat → (List Byte → Prog α) → Prog α
  | 0, rest => rest []
  | n + 1, rest => shiftIn ph fun b => shiftInBytes ph n fun bs => rest (b :: bs)

/-- Consecutive ShiftOut of the bytes, in order (R152, R68). -/
def shiftOutBytes : List Byte → Prog α → Prog α
  | [], rest => rest
  | b :: bs, rest => shiftOut b (shiftOutBytes bs rest)

/-- LineInit() (R140). -/
def lineInit (rest : Prog α) : Prog α :=
  .setDir .ce .output <| .setLevel .ce false <|
  .setDir .clk .output <| .setLevel .clk false <|
  .setDir .dio .output <| .setLevel .dio false rest

/-- FrameOpen() of a frame of the given kind (R141, R85). -/
def frameOpen (c : Byte) (kind : FrameKind) (rest : Prog α) : Prog α :=
  .openFrame c kind <| .delay Config.tCeSetup rest

/-- RdXfer(c) (R142). -/
def rdXfer (ph : SamplePhase) (c : Byte) (rest : Byte → Prog α) : Prog α :=
  lineInit <| frameOpen c .rd <| shiftOut c <| .setDir .dio .input <|
    shiftIn ph fun v => .setLevel .ce false (rest v)

/-- WrXfer(c, d) (R143). DIO is left an output at bit 7 of `d`, as R143 states. -/
def wrXfer (c d : Byte) (rest : Prog α) : Prog α :=
  lineInit <| frameOpen c (.wr d) <| shiftOut c <| shiftOut d <| .setLevel .ce false rest

/-- BurstRdXfer(c, n) (R151). -/
def burstRdXfer (ph : SamplePhase) (c : Byte) (n : Nat) (rest : List Byte → Prog α) : Prog α :=
  lineInit <| frameOpen c (.brd n) <| shiftOut c <| .setDir .dio .input <|
    shiftInBytes ph n fun bs => .setLevel .ce false (rest bs)

/-- The burst frame of BurstWrXfer (R152), without its guard. -/
def burstWrFrame (c : Byte) (ds : List Byte) (rest : Prog α) : Prog α :=
  lineInit <| frameOpen c (.bwr ds) <| shiftOut c <| shiftOutBytes ds <| .setLevel .ce false rest

/-- WpWrite(f), f being 0 or 1 (R202). -/
def wpWrite (f : Byte) (rest : Prog α) : Prog α := wrXfer 0x8E (f <<< 7) rest

/-- Guarded(inner): GuardBegin, inner, GuardEnd (R201). -/
def guarded (P : Params) (inner : Prog α → Prog α) (rest : Prog α) : Prog α :=
  match P.wpRestore with
  | .forceSet => wpWrite 0 <| inner <| wpWrite 1 rest
  | .restorePrior =>
    rdXfer P.samplePhase 0x8F fun wp => wpWrite 0 <| inner <| wpWrite (bit wp 7) rest

/-- BurstWrXfer(c, ds): the burst frame inside the guard (R152). -/
def burstWrXfer (P : Params) (c : Byte) (ds : List Byte) (rest : Prog α) : Prog α :=
  guarded P (burstWrFrame c ds) rest

end Sys2Proof.Machine
end

