-- ==== Sys2Proof/Machine/BitTransport.lean ====
section
/-! DEFINITION. BitTransport: WRBITS and RDBITS (40_bit_transport.md R132, R133). -/

namespace Sys2Proof.Machine

/-- WRBITS (R132): ShiftOut of S_ARG, which is the ARG byte `b` of the accepted word, outside any frame. R132 leaves DIO
at bit 7 of `b`; what the completion makes of it is log entry 22 (`State.finish`). -/
def execWrbits (b : Byte) (s : State) : Host.Outcome State Fault Refusal :=
  s.operate fun _ _ => shiftOut b (.ret .done)

/-- RDBITS (R133): RESULT takes the byte shifted in, outside any frame; DIO is not switched. -/
def execRdbits (s : State) : Host.Outcome State Fault Refusal :=
  s.operate fun P _ => shiftIn P.samplePhase fun v => .ret (.value v)

end Sys2Proof.Machine
end

