-- ==== Sys2Proof/Machine/BurstTransport.lean ====
section
/-! DEFINITION. BurstTransport: RDBURST.CLOCK, RDBURST.RAM, WRBURST.CLOCK, WRBURST.RAM (42_burst_transport.md R153 to R157). -/

namespace Sys2Proof.Machine

/-- RDBURST.CLOCK (R153): BUF[0..8] take the 9 raw bytes. -/
def execRdburstClock (s : State) : Host.Outcome State Fault Refusal :=
  s.operate fun P _ =>
    burstRdXfer P.samplePhase Config.cmdBurstRd Config.nClockBlock fun bs => .ret (.bytes bs)

/-- RDBURST.RAM (R154): BUF[0..30] take the 31 raw bytes. -/
def execRdburstRam (s : State) : Host.Outcome State Fault Refusal :=
  s.operate fun P _ =>
    burstRdXfer P.samplePhase P.ramBurstRd Config.nRamBlock fun bs => .ret (.bytes bs)

/-- WRBURST.CLOCK (R155): S_BUF[0..8] in one guarded frame. -/
def execWrburstClock (s : State) : Host.Outcome State Fault Refusal :=
  s.operate fun P S =>
    burstWrXfer P Config.cmdBurstWr (S.buf.firstBytes Config.nClockBlock) (.ret .done)

/-- WRBURST.RAM (R156): S_BUF[0..30] in one guarded frame. -/
def execWrburstRam (s : State) : Host.Outcome State Fault Refusal :=
  s.operate fun P S =>
    burstWrXfer P P.ramBurstWr (S.buf.firstBytes Config.nRamBlock) (.ret .done)

end Sys2Proof.Machine
end

