-- ==== Sys2Proof/Machine/ByteTransport.lean ====
section
/-! DEFINITION. ByteTransport: RDBYTE and WRBYTE (41_byte_transport.md R144, R145). -/

namespace Sys2Proof.Machine

/-- RDBYTE (R144): one read transaction with the command byte `c` = S_ARG, sent unchanged. -/
def execRdbyte (c : Byte) (s : State) : Host.Outcome State Fault Refusal :=
  s.operate fun P _ => rdXfer P.samplePhase c fun v => .ret (.value v)

/-- WRBYTE (R145): one write transaction with the command byte `c` = S_ARG and the data byte S_DATA, with no guard. -/
def execWrbyte (c : Byte) (s : State) : Host.Outcome State Fault Refusal :=
  s.operate fun _ S => wrXfer c S.data (.ret .done)

end Sys2Proof.Machine
end

