-- ==== Sys2Proof/Machine/Command.lean ====
section
/-! DEFINITION. The command bytes of 20_memory.md R63 and 42_burst_transport.md R150, as the peripheral acts on them in
the frame that carries them (R85 to R90). -/

namespace Sys2Proof.Machine

/-- CMD.RD.SECONDS (R63, R86). -/
def execCmdRdSeconds (s : State) : Host.Outcome State Fault Refusal := .next (s.takeCommand 0x81)

/-- CMD.WR.SECONDS (R63, R87). -/
def execCmdWrSeconds (s : State) : Host.Outcome State Fault Refusal := .next (s.takeCommand 0x80)

/-- CMD.RD.MINUTES (R63, R86). -/
def execCmdRdMinutes (s : State) : Host.Outcome State Fault Refusal := .next (s.takeCommand 0x83)

/-- CMD.WR.MINUTES (R63, R87). -/
def execCmdWrMinutes (s : State) : Host.Outcome State Fault Refusal := .next (s.takeCommand 0x82)

/-- CMD.RD.HOUR (R63, R86). -/
def execCmdRdHour (s : State) : Host.Outcome State Fault Refusal := .next (s.takeCommand 0x85)

/-- CMD.WR.HOUR (R63, R87). -/
def execCmdWrHour (s : State) : Host.Outcome State Fault Refusal := .next (s.takeCommand 0x84)

/-- CMD.RD.DATE (R63, R86). -/
def execCmdRdDate (s : State) : Host.Outcome State Fault Refusal := .next (s.takeCommand 0x87)

/-- CMD.WR.DATE (R63, R87). -/
def execCmdWrDate (s : State) : Host.Outcome State Fault Refusal := .next (s.takeCommand 0x86)

/-- CMD.RD.MONTH (R63, R86). -/
def execCmdRdMonth (s : State) : Host.Outcome State Fault Refusal := .next (s.takeCommand 0x89)

/-- CMD.WR.MONTH (R63, R87). -/
def execCmdWrMonth (s : State) : Host.Outcome State Fault Refusal := .next (s.takeCommand 0x88)

/-- CMD.RD.WEEKDAY (R63, R86). -/
def execCmdRdWeekday (s : State) : Host.Outcome State Fault Refusal := .next (s.takeCommand 0x8B)

/-- CMD.WR.WEEKDAY (R63, R87). -/
def execCmdWrWeekday (s : State) : Host.Outcome State Fault Refusal := .next (s.takeCommand 0x8A)

/-- CMD.RD.YEAR (R63, R86). -/
def execCmdRdYear (s : State) : Host.Outcome State Fault Refusal := .next (s.takeCommand 0x8D)

/-- CMD.WR.YEAR (R63, R87). -/
def execCmdWrYear (s : State) : Host.Outcome State Fault Refusal := .next (s.takeCommand 0x8C)

/-- CMD.RD.WP (R63, R86). -/
def execCmdRdWp (s : State) : Host.Outcome State Fault Refusal := .next (s.takeCommand 0x8F)

/-- CMD.WR.WP (R63, R87). -/
def execCmdWrWp (s : State) : Host.Outcome State Fault Refusal := .next (s.takeCommand 0x8E)

/-- CMD.RD.TRICKLE (R63, R86). -/
def execCmdRdTrickle (s : State) : Host.Outcome State Fault Refusal := .next (s.takeCommand 0x91)

/-- CMD.WR.TRICKLE (R63, R87). -/
def execCmdWrTrickle (s : State) : Host.Outcome State Fault Refusal := .next (s.takeCommand 0x90)

/-- CMD.RD.CLOCKBURST (R150, R86). -/
def execCmdRdClockBurst (s : State) : Host.Outcome State Fault Refusal := .next (s.takeCommand 0xBF)

/-- CMD.WR.CLOCKBURST (R150, R88). -/
def execCmdWrClockBurst (s : State) : Host.Outcome State Fault Refusal := .next (s.takeCommand 0xBE)

end Sys2Proof.Machine
end

