-- ==== Sys2Proof/Machine/FieldRead.lean ====
section
/-! DEFINITION. The field reads RDFIELD.* (43_codec_read.md R172 to R184): one read transaction, then the field's decode. -/

namespace Sys2Proof.Machine

/-- The shared template of the field reads: one RdXfer of the read command, then the decode (43_codec_read.md §2). -/
def readField (c : Byte) (decode : Byte → Byte) (P : Params) : Prog OpResult :=
  rdXfer P.samplePhase c fun raw => .ret (.value (decode raw))

/-- RDFIELD.SECOND (R172). -/
def execRdfieldSecond (s : State) : Host.Outcome State Fault Refusal :=
  s.operate fun P _ => readField 0x81 decodeSecond P

/-- RDFIELD.MINUTE (R173). -/
def execRdfieldMinute (s : State) : Host.Outcome State Fault Refusal :=
  s.operate fun P _ => readField 0x83 decodeMinute P

/-- RDFIELD.HOUR (R174). -/
def execRdfieldHour (s : State) : Host.Outcome State Fault Refusal :=
  s.operate fun P _ => readField 0x85 decodeHour P

/-- RDFIELD.DATE (R175). -/
def execRdfieldDate (s : State) : Host.Outcome State Fault Refusal :=
  s.operate fun P _ => readField 0x87 decodeDate P

/-- RDFIELD.MONTH (R176). -/
def execRdfieldMonth (s : State) : Host.Outcome State Fault Refusal :=
  s.operate fun P _ => readField 0x89 decodeMonth P

/-- RDFIELD.WEEKDAY (R177). -/
def execRdfieldWeekday (s : State) : Host.Outcome State Fault Refusal :=
  s.operate fun P _ => readField 0x8B decodeWeekday P

/-- RDFIELD.YEAR (R178). -/
def execRdfieldYear (s : State) : Host.Outcome State Fault Refusal :=
  s.operate fun P _ => readField 0x8D decodeYear P

/-- RDFIELD.MERIDIEM (R179). -/
def execRdfieldMeridiem (s : State) : Host.Outcome State Fault Refusal :=
  s.operate fun P _ => readField 0x85 decodeMeridiem P

/-- RDFIELD.HOURFORMAT (R180). -/
def execRdfieldHourFormat (s : State) : Host.Outcome State Fault Refusal :=
  s.operate fun P _ => readField 0x85 decodeHourFormat P

/-- RDFIELD.CLOCKHALT (R181). -/
def execRdfieldClockHalt (s : State) : Host.Outcome State Fault Refusal :=
  s.operate fun P _ => readField 0x81 decodeClockHalt P

/-- RDFIELD.WRITEPROTECT (R182). -/
def execRdfieldWriteProtect (s : State) : Host.Outcome State Fault Refusal :=
  s.operate fun P _ => readField 0x8F decodeWriteProtect P

/-- RDFIELD.RAWHOUR (R183). -/
def execRdfieldRawHour (s : State) : Host.Outcome State Fault Refusal :=
  s.operate fun P _ => readField 0x85 decodeRawHour P

/-- RDFIELD.TRICKLE (R184). -/
def execRdfieldTrickle (s : State) : Host.Outcome State Fault Refusal :=
  s.operate fun P _ => readField 0x91 decodeTrickle P

end Sys2Proof.Machine
end

