-- ==== Sys2Proof/Machine/FieldWrite.lean ====
section
/-! DEFINITION. The field writes WRFIELD.* (44_codec_write.md R206 to R218). Each body is written once, for its WRFIELD operation and for SETTIME (45_timerecord.md R243). -/

namespace Sys2Proof.Machine

variable {α : Type}

/-- A guarded merging write: read the register once, write back the merge of the packed value (R203, R206, R207, R209,
R210, R212). -/
def mergeField (P : Params) (rdCmd wrCmd mask v : Byte) (rest : Prog α) : Prog α :=
  guarded P (fun out => rdXfer P.samplePhase rdCmd fun raw => wrXfer wrCmd (merge raw (bcd v) mask) out) rest

/-- The body of WRFIELD.SECOND: bit 7, ClockHalt, is kept (R206). -/
def writeSecond (P : Params) (v : Byte) (rest : Prog α) : Prog α := mergeField P 0x81 0x80 0x7F v rest

/-- The body of WRFIELD.MINUTE: bit 7 is kept (R207). -/
def writeMinute (P : Params) (v : Byte) (rest : Prog α) : Prog α := mergeField P 0x83 0x82 0x7F v rest

/-- The body of WRFIELD.HOUR, in the format the device holds; in 12 h format the meridiem bit is kept (R208). -/
def writeHour (P : Params) (v : Byte) (rest : Prog α) : Prog α :=
  guarded P (fun out => rdXfer P.samplePhase 0x85 fun raw =>
    if bit raw 7 = 1 then wrXfer 0x84 (enc12 (hour12Of v) (bit raw 5)) out
    else wrXfer 0x84 (enc24 v) out) rest

/-- The body of WRFIELD.DATE: bits 7:6 are kept (R209). -/
def writeDate (P : Params) (v : Byte) (rest : Prog α) : Prog α := mergeField P 0x87 0x86 0x3F v rest

/-- The body of WRFIELD.MONTH: bits 7:5 are kept (R210). -/
def writeMonth (P : Params) (v : Byte) (rest : Prog α) : Prog α := mergeField P 0x89 0x88 0x1F v rest

/-- The body of WRFIELD.WEEKDAY: the byte as given (R211). -/
def writeWeekday (P : Params) (v : Byte) (rest : Prog α) : Prog α :=
  guarded P (fun out => wrXfer 0x8A v out) rest

/-- The body of WRFIELD.YEAR: the register is read although no bit of it survives (R212). -/
def writeYear (P : Params) (v : Byte) (rest : Prog α) : Prog α := mergeField P 0x8D 0x8C 0xFF v rest

/-- The body of WRFIELD.MERIDIEM: in 12 h format only, by bit 0 of the value; the guard runs either way (R213). -/
def writeMeridiem (P : Params) (v : Byte) (rest : Prog α) : Prog α :=
  guarded P (fun out => rdXfer P.samplePhase 0x85 fun raw =>
    if bit raw 7 = 1 then wrXfer 0x84 ((raw &&& ~~~(0x20 : Byte)) ||| ((v &&& 1) <<< 5)) out else out) rest

/-- The hour byte in the other format, all views from the one byte read (R214). -/
def convertHour (raw : Byte) : Byte :=
  if bit raw 7 = 0 then enc12 (to12 (dec raw 0x3)).1 (to12 (dec raw 0x3)).2
  else enc24 (to24 (dec raw 0x1) (bit raw 5))

/-- The body of WRFIELD.HOURFORMAT: no write if the format is already the one bit 0 of the value asks for (R214). -/
def writeHourFormat (P : Params) (v : Byte) (rest : Prog α) : Prog α :=
  guarded P (fun out => rdXfer P.samplePhase 0x85 fun raw =>
    if bit raw 7 = v &&& 1 then out else wrXfer 0x84 (convertHour raw) out) rest

/-- The body of WRFIELD.CLOCKHALT: bit 0 of the value to bit 7, the seconds digits kept (R215). -/
def writeClockHalt (P : Params) (v : Byte) (rest : Prog α) : Prog α :=
  guarded P (fun out => rdXfer P.samplePhase 0x81 fun raw =>
    wrXfer 0x80 ((raw &&& 0x7F) ||| ((v &&& 1) <<< 7)) out) rest

/-- The body of WRFIELD.WRITEPROTECT: WpWrite of bit 0 of the value, with no guard (R216). -/
def writeWriteProtect (v : Byte) (rest : Prog α) : Prog α := wpWrite (v &&& 1) rest

/-- The body of WRFIELD.RAWHOUR: the byte as given (R217). -/
def writeRawHour (P : Params) (v : Byte) (rest : Prog α) : Prog α :=
  guarded P (fun out => wrXfer 0x84 v out) rest

/-- The body of WRFIELD.TRICKLE: the byte as given (R218). -/
def writeTrickle (P : Params) (v : Byte) (rest : Prog α) : Prog α :=
  guarded P (fun out => wrXfer 0x90 v out) rest

/-- WRFIELD.SECOND (R206), v = S_DATA. -/
def execWrfieldSecond (s : State) : Host.Outcome State Fault Refusal :=
  s.operate fun P S => writeSecond P S.data (.ret .done)

/-- WRFIELD.MINUTE (R207), v = S_DATA. -/
def execWrfieldMinute (s : State) : Host.Outcome State Fault Refusal :=
  s.operate fun P S => writeMinute P S.data (.ret .done)

/-- WRFIELD.HOUR (R208), v = S_DATA. -/
def execWrfieldHour (s : State) : Host.Outcome State Fault Refusal :=
  s.operate fun P S => writeHour P S.data (.ret .done)

/-- WRFIELD.DATE (R209), v = S_DATA. -/
def execWrfieldDate (s : State) : Host.Outcome State Fault Refusal :=
  s.operate fun P S => writeDate P S.data (.ret .done)

/-- WRFIELD.MONTH (R210), v = S_DATA. -/
def execWrfieldMonth (s : State) : Host.Outcome State Fault Refusal :=
  s.operate fun P S => writeMonth P S.data (.ret .done)

/-- WRFIELD.WEEKDAY (R211), v = S_DATA. -/
def execWrfieldWeekday (s : State) : Host.Outcome State Fault Refusal :=
  s.operate fun P S => writeWeekday P S.data (.ret .done)

/-- WRFIELD.YEAR (R212), v = S_DATA. -/
def execWrfieldYear (s : State) : Host.Outcome State Fault Refusal :=
  s.operate fun P S => writeYear P S.data (.ret .done)

/-- WRFIELD.MERIDIEM (R213), v = S_DATA. -/
def execWrfieldMeridiem (s : State) : Host.Outcome State Fault Refusal :=
  s.operate fun P S => writeMeridiem P S.data (.ret .done)

/-- WRFIELD.HOURFORMAT (R214), v = S_DATA. -/
def execWrfieldHourFormat (s : State) : Host.Outcome State Fault Refusal :=
  s.operate fun P S => writeHourFormat P S.data (.ret .done)

/-- WRFIELD.CLOCKHALT (R215), v = S_DATA. -/
def execWrfieldClockHalt (s : State) : Host.Outcome State Fault Refusal :=
  s.operate fun P S => writeClockHalt P S.data (.ret .done)

/-- WRFIELD.WRITEPROTECT (R216), v = S_DATA. -/
def execWrfieldWriteProtect (s : State) : Host.Outcome State Fault Refusal :=
  s.operate fun _ S => writeWriteProtect S.data (.ret .done)

/-- WRFIELD.RAWHOUR (R217), v = S_DATA. -/
def execWrfieldRawHour (s : State) : Host.Outcome State Fault Refusal :=
  s.operate fun P S => writeRawHour P S.data (.ret .done)

/-- WRFIELD.TRICKLE (R218), v = S_DATA. -/
def execWrfieldTrickle (s : State) : Host.Outcome State Fault Refusal :=
  s.operate fun P S => writeTrickle P S.data (.ret .done)

end Sys2Proof.Machine
end

