-- ==== Sys2Proof/Machine/TimeRecord.lean ====
section
/-! DEFINITION. The TimeRecord sequencer: GETTIME and SETTIME (45_timerecord.md R240 to R244). -/

namespace Sys2Proof.Machine

/-- The rule of GETTIME: nine read transactions, the hour register read three times (R241). -/
def getTimeRule (P : Params) : Prog OpResult :=
  rdXfer P.samplePhase 0x81 fun rs =>
  rdXfer P.samplePhase 0x83 fun rmi =>
  rdXfer P.samplePhase 0x85 fun rh =>
  rdXfer P.samplePhase 0x87 fun rd =>
  rdXfer P.samplePhase 0x89 fun rmo =>
  rdXfer P.samplePhase 0x8D fun ry =>
  rdXfer P.samplePhase 0x8B fun rw =>
  rdXfer P.samplePhase 0x85 fun rf =>
  rdXfer P.samplePhase 0x85 fun rme =>
  .ret <| .record
    { sec := decodeSecond rs, min := decodeMinute rmi, hour := decodeHour rh, date := decodeDate rd
      month := decodeMonth rmo, year := decodeYear ry, wday := decodeWeekday rw
      fmt := decodeHourFormat rf, mer := decodeMeridiem rme }

/-- SetSequence (R243): HOURFORMAT first, MERIDIEM last and only in 12 h format, each field in its own guard. -/
def setSequence (P : Params) (r : TimeRecord) (rest : Prog OpResult) : Prog OpResult :=
  writeHourFormat P r.fmt <| writeSecond P r.sec <| writeMinute P r.min <| writeHour P r.hour <|
  writeDate P r.date <| writeMonth P r.month <| writeYear P r.year <| writeWeekday P r.wday <|
  if r.fmt = 1 then writeMeridiem P r.mer rest else rest

/-- The rule of SETTIME (R244): validate the record, raise the first failing check's code with no line event, else write
field by field. -/
def setTimeRule (P : Params) (r : TimeRecord) : Prog OpResult :=
  if validate r = errOk then setSequence P r (.ret .done) else raiseError (validate r)

/-- GETTIME (R241). -/
def execGettime (s : State) : Host.Outcome State Fault Refusal :=
  s.operate fun P _ => getTimeRule P

/-- SETTIME (R244). -/
def execSettime (s : State) : Host.Outcome State Fault Refusal :=
  s.operate fun P S => setTimeRule P S.tr

end Sys2Proof.Machine
end

