-- ==== Sys2Proof/Machine/Dispatch.lean ====
section
/-! DEFINITION. The dispatch of every instruction to its meaning, one arm per constructor. -/

namespace Sys2Proof.Machine

def exec (i : Instr) (s : State) : Host.Outcome State Fault Refusal :=
  match i with
  | .wrbits b => Sys2Proof.Machine.execWrbits b s
  | .rdbits => Sys2Proof.Machine.execRdbits s
  | .rdbyte c => Sys2Proof.Machine.execRdbyte c s
  | .wrbyte c => Sys2Proof.Machine.execWrbyte c s
  | .rdburstClock => Sys2Proof.Machine.execRdburstClock s
  | .rdburstRam => Sys2Proof.Machine.execRdburstRam s
  | .wrburstClock => Sys2Proof.Machine.execWrburstClock s
  | .wrburstRam => Sys2Proof.Machine.execWrburstRam s
  | .rdfieldSecond => Sys2Proof.Machine.execRdfieldSecond s
  | .rdfieldMinute => Sys2Proof.Machine.execRdfieldMinute s
  | .rdfieldHour => Sys2Proof.Machine.execRdfieldHour s
  | .rdfieldDate => Sys2Proof.Machine.execRdfieldDate s
  | .rdfieldMonth => Sys2Proof.Machine.execRdfieldMonth s
  | .rdfieldWeekday => Sys2Proof.Machine.execRdfieldWeekday s
  | .rdfieldYear => Sys2Proof.Machine.execRdfieldYear s
  | .rdfieldMeridiem => Sys2Proof.Machine.execRdfieldMeridiem s
  | .rdfieldHourFormat => Sys2Proof.Machine.execRdfieldHourFormat s
  | .rdfieldClockHalt => Sys2Proof.Machine.execRdfieldClockHalt s
  | .rdfieldWriteProtect => Sys2Proof.Machine.execRdfieldWriteProtect s
  | .rdfieldRawHour => Sys2Proof.Machine.execRdfieldRawHour s
  | .rdfieldTrickle => Sys2Proof.Machine.execRdfieldTrickle s
  | .wrfieldSecond => Sys2Proof.Machine.execWrfieldSecond s
  | .wrfieldMinute => Sys2Proof.Machine.execWrfieldMinute s
  | .wrfieldHour => Sys2Proof.Machine.execWrfieldHour s
  | .wrfieldDate => Sys2Proof.Machine.execWrfieldDate s
  | .wrfieldMonth => Sys2Proof.Machine.execWrfieldMonth s
  | .wrfieldWeekday => Sys2Proof.Machine.execWrfieldWeekday s
  | .wrfieldYear => Sys2Proof.Machine.execWrfieldYear s
  | .wrfieldMeridiem => Sys2Proof.Machine.execWrfieldMeridiem s
  | .wrfieldHourFormat => Sys2Proof.Machine.execWrfieldHourFormat s
  | .wrfieldClockHalt => Sys2Proof.Machine.execWrfieldClockHalt s
  | .wrfieldWriteProtect => Sys2Proof.Machine.execWrfieldWriteProtect s
  | .wrfieldRawHour => Sys2Proof.Machine.execWrfieldRawHour s
  | .wrfieldTrickle => Sys2Proof.Machine.execWrfieldTrickle s
  | .gettime => Sys2Proof.Machine.execGettime s
  | .settime => Sys2Proof.Machine.execSettime s
  | .cmdRdSeconds => Sys2Proof.Machine.execCmdRdSeconds s
  | .cmdWrSeconds => Sys2Proof.Machine.execCmdWrSeconds s
  | .cmdRdMinutes => Sys2Proof.Machine.execCmdRdMinutes s
  | .cmdWrMinutes => Sys2Proof.Machine.execCmdWrMinutes s
  | .cmdRdHour => Sys2Proof.Machine.execCmdRdHour s
  | .cmdWrHour => Sys2Proof.Machine.execCmdWrHour s
  | .cmdRdDate => Sys2Proof.Machine.execCmdRdDate s
  | .cmdWrDate => Sys2Proof.Machine.execCmdWrDate s
  | .cmdRdMonth => Sys2Proof.Machine.execCmdRdMonth s
  | .cmdWrMonth => Sys2Proof.Machine.execCmdWrMonth s
  | .cmdRdWeekday => Sys2Proof.Machine.execCmdRdWeekday s
  | .cmdWrWeekday => Sys2Proof.Machine.execCmdWrWeekday s
  | .cmdRdYear => Sys2Proof.Machine.execCmdRdYear s
  | .cmdWrYear => Sys2Proof.Machine.execCmdWrYear s
  | .cmdRdWp => Sys2Proof.Machine.execCmdRdWp s
  | .cmdWrWp => Sys2Proof.Machine.execCmdWrWp s
  | .cmdRdTrickle => Sys2Proof.Machine.execCmdRdTrickle s
  | .cmdWrTrickle => Sys2Proof.Machine.execCmdWrTrickle s
  | .cmdRdClockBurst => Sys2Proof.Machine.execCmdRdClockBurst s
  | .cmdWrClockBurst => Sys2Proof.Machine.execCmdWrClockBurst s

end Sys2Proof.Machine
end

