-- ==== Sys2Proof/Machine/Step.lean ====
section
/-! DEFINITION. One step of the machine: the agent whose turn it is moves (00_scope.md R4). -/

namespace Sys2Proof.Machine

/-- One step. The peripheral acts on the command byte it has received (a listed one is an instruction; any other byte gets
the same treatment without being one, 30_encoding.md R109); the controller runs the operation whose word its sequencer
holds (10_state.md R33); the host does its next act, and with none the block idles (70_reset_and_hazards.md R290). -/
def step (s : State) : Host.Outcome State Fault Refusal :=
  match s.turn with
  | .peripheral c =>
    match decodeCommand c with
    | .ok i => exec i s
    | .error _ => .next (s.takeCommand c)
  | .controller w =>
    match decodeWord w with
    | .ok i => exec i s
    | .error why => .fault (.sequencerWordIllegal why)
  | .host => .next s.hostAct

/-- `s` with one instruction placed where the machine fetches it (log entry 8). An operation word is placed as the host
places it: ARG stored, the word accepted, no host act and no frame before it. A command byte is placed as a received byte
of an open frame. -/
def State.withFetchWord (s : State) (nbits w : Nat) : State :=
  if nbits = 16 then
    State.accept { s with arg := argOf (BitVec.ofNat 16 w), frame := none, inputs := [] } (BitVec.ofNat 16 w)
  else if nbits = 8 then { s with frame := some (frameAwaiting (BitVec.ofNat 8 w)) }
  else s

end Sys2Proof.Machine
end

