-- ==== Sys2Proof/Safety.lean ====
section
/-! DEFINITION. The vocabulary of the claims: the line events of each sequence written out as lists (40_bit_transport.md
R130, R131, 41_byte_transport.md R140 to R143, 42_burst_transport.md R151, R152, 44_codec_write.md R201, R202), the pads
they leave, what a peripheral answers, and the properties of states that steps keep. -/

namespace Sys2Proof.Machine

/-! ### Line events -/

/-- The 24 events of ShiftOut(b) (R130). -/
def shiftOutEvents (b : Byte) : List LineEvent :=
  (List.range 8).flatMap fun i =>
    [.setLevel .dio (b.getLsbD i), .setLevel .clk true, .setLevel .clk false]

/-- The 24 events of a ShiftIn that reads `v` (R131). -/
def shiftInEvents (ph : SamplePhase) (v : Byte) : List LineEvent :=
  (List.range 8).flatMap fun i =>
    match ph with
    | .afterFall => [.setLevel .clk true, .setLevel .clk false, .sample (v.getLsbD i)]
    | .beforeRise => [.sample (v.getLsbD i), .setLevel .clk true, .setLevel .clk false]

/-- The 6 events of LineInit (R140). -/
def lineInitEvents : List LineEvent :=
  [.setDir .ce .output, .setLevel .ce false, .setDir .clk .output, .setLevel .clk false,
    .setDir .dio .output, .setLevel .dio false]

/-- The 2 events of FrameOpen (R141). -/
def frameOpenEvents : List LineEvent := [.setLevel .ce true, .delay 4]

/-- The 58 events of RdXfer(c) that reads `v` (R142). -/
def rdXferEvents (ph : SamplePhase) (c v : Byte) : List LineEvent :=
  lineInitEvents ++ frameOpenEvents ++ shiftOutEvents c ++ [.setDir .dio .input] ++ shiftInEvents ph v
    ++ [.setLevel .ce false]

/-- The 57 events of WrXfer(c, d) (R143). -/
def wrXferEvents (c d : Byte) : List LineEvent :=
  lineInitEvents ++ frameOpenEvents ++ shiftOutEvents c ++ shiftOutEvents d ++ [.setLevel .ce false]

/-- The events of BurstRdXfer that reads `vs` (R151). -/
def burstRdEvents (ph : SamplePhase) (c : Byte) (vs : List Byte) : List LineEvent :=
  lineInitEvents ++ frameOpenEvents ++ shiftOutEvents c ++ [.setDir .dio .input]
    ++ vs.flatMap (shiftInEvents ph) ++ [.setLevel .ce false]

/-- The events of the burst write frame (R152). -/
def burstWrEvents (c : Byte) (ds : List Byte) : List LineEvent :=
  lineInitEvents ++ frameOpenEvents ++ shiftOutEvents c ++ ds.flatMap shiftOutEvents ++ [.setLevel .ce false]

/-- The events of WpWrite(f) (R202). -/
def wpWriteEvents (f : Byte) : List LineEvent := wrXferEvents 0x8E (f <<< 7)

/-- `inner` between GuardBegin and GuardEnd, `wp` being the WP byte that RESTORE_PRIOR reads first (R201). -/
def guardedEvents (P : Params) (wp : Byte) (inner : List LineEvent) : List LineEvent :=
  match P.wpRestore with
  | .forceSet => wpWriteEvents 0 ++ inner ++ wpWriteEvents 1
  | .restorePrior =>
    rdXferEvents P.samplePhase 0x8F wp ++ wpWriteEvents 0 ++ inner ++ wpWriteEvents (bit wp 7)

/-- The WP bit the guard writes back (R201). -/
def guardRestores (P : Params) (wp : Byte) : Byte :=
  match P.wpRestore with
  | .forceSet => 1
  | .restorePrior => bit wp 7

/-! ### Pads -/

/-- The effect of one event on the pads (R21): only SetDir and SetLevel write them. -/
def Pads.after (p : Pads) : LineEvent → Pads
  | .setDir l d => p.setDir d l
  | .setLevel l v => p.setLevel v l
  | .sample _ => p
  | .delay _ => p

/-- The pads after a list of events, oldest first. -/
def Pads.replay (p : Pads) (es : List LineEvent) : Pads := es.foldl Pads.after p

/-- The pads a read frame with command `c` leaves: DIO an input, its level bit 7 of the command (R142). -/
def padsAfterRead (c : Byte) : Pads :=
  { ceDir := .output, clkDir := .output, dioDir := .input, ceLvl := false, clkLvl := false, dioLvl := c.getLsbD 7 }

/-- The pads a write frame whose last byte is `d` leaves (R143). -/
def padsAfterWrite (d : Byte) : Pads :=
  { ceDir := .output, clkDir := .output, dioDir := .output, ceLvl := false, clkLvl := false, dioLvl := d.getLsbD 7 }

/-! ### What a read returns and what a write leaves -/

/-- The byte whose bit i is `b i`. -/
def byteOf (b : Nat → Level) : Byte :=
  BitVec.ofBool (b 7) ++ BitVec.ofBool (b 6) ++ BitVec.ofBool (b 5) ++ BitVec.ofBool (b 4) ++
    BitVec.ofBool (b 3) ++ BitVec.ofBool (b 2) ++ BitVec.ofBool (b 1) ++ BitVec.ofBool (b 0)

/-- The byte assembled from eight draws, the first draw being bit 0 (R80, R131). -/
def oracleByte (d : Nat) : Byte := byteOf fun i => Config.oracleBit (d + i)

/-- What one read frame of clock register `idx` returned: `v`, with the peripheral `pe` and the count of draws `d` after
it. The device's byte is eight draws (R80); the reference peripheral's is its register, and it is unchanged (R86). -/
def ReadsRegister (s : State) (idx : Nat) (v : Byte) (pe : Peripheral) (d : Nat) : Prop :=
  (s.periph = .device → v = oracleByte s.draws ∧ pe = .device ∧ d = s.draws + 8) ∧
    ∀ rp, s.periph = .reference rp → v = rp.reg idx ∧ pe = .reference rp ∧ d = s.draws

/-- The reference peripheral after a guarded write of `b` to clock register `idx`, `none` being a guarded operation that
writes nothing, with the guard restoring the WP bit `f` (R201, R202, R87). -/
def RefPeripheral.afterGuarded (rp : RefPeripheral) (idx : Nat) (b : Option Byte) (f : Byte) : RefPeripheral :=
  match b with
  | some b => ((rp.setReg 7 0).setReg idx b).setReg 7 (f <<< 7)
  | none => (rp.setReg 7 0).setReg 7 (f <<< 7)

/-- What a guarded field write left behind: it read `raw` from clock register `idx` and wrote `b`, or nothing where that is
`none`; `wp` is the WP byte that RESTORE_PRIOR reads first. The reference peripheral answers with its registers and takes
the write; the device stays the device. -/
def GuardedWrite (s : State) (idx : Nat) (raw : Byte) (b : Option Byte) (wp : Byte) (pe : Peripheral) (d : Nat) : Prop :=
  (s.periph = .device → pe = .device) ∧
    ∀ rp, s.periph = .reference rp →
      raw = rp.reg idx ∧ (s.params.wpRestore = .restorePrior → wp = rp.reg 7) ∧
        pe = .reference (rp.afterGuarded idx b (guardRestores s.params wp)) ∧ d = s.draws

/-- The same for a field write that reads nothing. -/
def GuardedRawWrite (s : State) (idx : Nat) (b wp : Byte) (pe : Peripheral) (d : Nat) : Prop :=
  (s.periph = .device → pe = .device) ∧
    ∀ rp, s.periph = .reference rp →
      (s.params.wpRestore = .restorePrior → wp = rp.reg 7) ∧
        pe = .reference (rp.afterGuarded idx (some b) (guardRestores s.params wp)) ∧ d = s.draws

/-- The events of a guarded field write that reads `raw` with command `rc` and then writes `b` with command `wc`, or
writes nothing (R201, R206 to R210, R212 to R215). -/
def fieldWriteEvents (P : Params) (wp rc raw wc : Byte) (b : Option Byte) : List LineEvent :=
  guardedEvents P wp (rdXferEvents P.samplePhase rc raw ++
    match b with
    | some b => wrXferEvents wc b
    | none => [])

/-- The events of a guarded field write that reads nothing (R211, R217, R218). -/
def rawWriteEvents (P : Params) (wp wc b : Byte) : List LineEvent := guardedEvents P wp (wrXferEvents wc b)

/-! ### How an operation ends -/

/-- The event that brings DIO to rest after an operation that leaves the pads `p` and raised no error: none, but where DIO
is to rest low (60_exceptions.md R275) and is an output driven high. That there are two readings is the model's own choice
(log entry 22). -/
def restEvents (P : Params) (p : Pads) (code : ErrCode) : List LineEvent :=
  if code = 0 ∧ P.dioRest = .low ∧ p.dioDir = .output ∧ p.dioLvl = true then [.setLevel .dio false] else []

/-- `s` after an operation has ended with code `code`: its line events are appended to the trace, and after them the one
that brings DIO to rest, if there is one; the pads are `p` but for that event, the peripheral and the count of draws are the
ones given, the sequencer is idle. Every other field is as in `s`. -/
def State.ended (s : State) (es : List LineEvent) (p : Pads) (pe : Peripheral) (d : Nat) (code : ErrCode) : State :=
  { s with
    trace := s.trace ++ es ++ restEvents s.params p code
    pads := p.replay (restEvents s.params p code)
    periph := pe, draws := d, err := code, seq := none }

/-! ### The codec on natural numbers -/

/-- A BCD register as a number: the tens digit modulo `m`, the units digit whole (R170). -/
def bcdValue (raw : Byte) (m : Nat) : Nat := 10 * ((raw.toNat / 16) % m) + raw.toNat % 16

/-- The packed form of a number before it is cut to its mask (R200). -/
def packed (v : Nat) : Nat := 16 * (v / 10) + v % 10

/-- `b` has the bits of the packed value inside the mask and the bits of `raw` outside it (R203). -/
def MergedByte (mask raw v b : Byte) : Prop :=
  ∀ n, n < 8 → b.getLsbD n = if mask.getLsbD n then (packed v.toNat).testBit n else raw.getLsbD n

/-- The hour byte in 24 h format (R204): bits 7 and 6 are 0. -/
def Hour24Byte (h : Nat) (b : Byte) : Prop := b.toNat = packed h % 64

/-- The hour byte in 12 h format with meridiem `m` (R204): bit 7 is 1, bit 6 is 0. -/
def Hour12Byte (h : Nat) (m : Bool) (b : Byte) : Prop := b.toNat = 128 + (if m then 32 else 0) + packed h % 32

/-- What WRFIELD.HOUR writes for the value `v` where the register holds `raw` (R208). -/
def HourByte (raw v b : Byte) : Prop :=
  if raw.getLsbD 7 then Hour12Byte (if 12 < v.toNat then v.toNat - 12 else v.toNat) (raw.getLsbD 5) b
  else Hour24Byte v.toNat b

/-- What WRFIELD.MERIDIEM writes (R213): nothing in 24 h format. -/
def MeridiemByte (raw v : Byte) : Option Byte → Prop
  | none => raw.getLsbD 7 = false
  | some b => raw.getLsbD 7 = true ∧ ∀ n, n < 8 → b.getLsbD n = if n = 5 then v.getLsbD 0 else raw.getLsbD n

/-- What WRFIELD.HOURFORMAT writes (R214, R205): nothing if the format is the one asked for. -/
def FormatByte (raw v : Byte) : Option Byte → Prop
  | none => raw.getLsbD 7 = v.getLsbD 0
  | some b =>
    raw.getLsbD 7 ≠ v.getLsbD 0 ∧
      if raw.getLsbD 7 then Hour24Byte (bcdValue raw 2 + if raw.getLsbD 5 then 12 else 0) b
      else if 12 < bcdValue raw 4 then Hour12Byte (bcdValue raw 4 - 12) true b
      else Hour12Byte (bcdValue raw 4) false b

/-- The checks of R242 in order, each with its code (R261): the code applies where the check is `true`. -/
def recordChecks (r : TimeRecord) : List (Bool × ErrCode) :=
  [(r.fmt != 0 && r.fmt != 1, 0x1), (decide (59 < r.sec.toNat), 0x2), (decide (59 < r.min.toNat), 0x3),
    (r.fmt == 1 && decide (12 < r.hour.toNat), 0x4), (r.fmt == 0 && decide (23 < r.hour.toNat), 0x4),
    (decide (31 < r.date.toNat), 0x5), (decide (12 < r.month.toNat), 0x6), (decide (99 < r.year.toNat), 0x7),
    (decide (7 < r.wday.toNat), 0x8), (r.fmt == 1 && (r.mer != 0 && r.mer != 1), 0x9)]

/-- The code of the first failing check, 0 where none fails. -/
def firstFailure (r : TimeRecord) : ErrCode := (((recordChecks r).find? (·.1)).map (·.2)).getD 0

/-! ### The tables of the spec -/

/-- RDFIELD by field id (R103). -/
def fieldReads : List Instr :=
  [.rdfieldSecond, .rdfieldMinute, .rdfieldHour, .rdfieldDate, .rdfieldMonth, .rdfieldWeekday, .rdfieldYear,
    .rdfieldMeridiem, .rdfieldHourFormat, .rdfieldClockHalt, .rdfieldWriteProtect, .rdfieldRawHour, .rdfieldTrickle]

/-- WRFIELD by field id (R103). -/
def fieldWrites : List Instr :=
  [.wrfieldSecond, .wrfieldMinute, .wrfieldHour, .wrfieldDate, .wrfieldMonth, .wrfieldWeekday, .wrfieldYear,
    .wrfieldMeridiem, .wrfieldHourFormat, .wrfieldClockHalt, .wrfieldWriteProtect, .wrfieldRawHour, .wrfieldTrickle]

/-- A row of the peripheral register map (R63). -/
structure MapRow where
  read : Instr
  write : Instr
  readCmd : Byte
  writeCmd : Byte
  index : Nat
  deriving DecidableEq, Repr

/-- The nine single registers of the peripheral register map (R63). -/
def registerMap : List MapRow :=
  [⟨.cmdRdSeconds, .cmdWrSeconds, 0x81, 0x80, 0⟩, ⟨.cmdRdMinutes, .cmdWrMinutes, 0x83, 0x82, 1⟩,
    ⟨.cmdRdHour, .cmdWrHour, 0x85, 0x84, 2⟩, ⟨.cmdRdDate, .cmdWrDate, 0x87, 0x86, 3⟩,
    ⟨.cmdRdMonth, .cmdWrMonth, 0x89, 0x88, 4⟩, ⟨.cmdRdWeekday, .cmdWrWeekday, 0x8B, 0x8A, 5⟩,
    ⟨.cmdRdYear, .cmdWrYear, 0x8D, 0x8C, 6⟩, ⟨.cmdRdWp, .cmdWrWp, 0x8F, 0x8E, 7⟩,
    ⟨.cmdRdTrickle, .cmdWrTrickle, 0x91, 0x90, 8⟩]

/-- The 20 command-byte instructions. -/
def commands : List Instr :=
  registerMap.map MapRow.read ++ registerMap.map MapRow.write ++ [.cmdRdClockBurst, .cmdWrClockBurst]

/-! ### Starting points -/

/-- The controller stands at the first event of an operation it has accepted (R26, R33): the sequencer holds its word, no
frame is open (R134), and no host act lands before the operation completes. -/
def Started (i : Instr) (s : State) : Prop :=
  (∃ w, decodeWord w = .ok i ∧ s.seq = some { word := w, next := 0, samples := [] }) ∧
    s.frame = none ∧ s.quiet = true

/-! ### Properties of states that steps keep -/

/-- The pads are what the events since reset have made of the reset pads (R21, R34, R290). -/
def PadsFollowTrace (s : State) : Prop := s.pads = Pads.reset.replay s.trace

/-- CE and CLK are outputs (R23). -/
def CeClkOutputs (s : State) : Prop := s.pads.ceDir = .output ∧ s.pads.clkDir = .output

/-- STATUS.ERR holds no reserved code (R261). -/
def ErrNotReserved (s : State) : Prop := s.err.toNat ≤ 9 ∨ s.err = 0xF

/-- A frame is open only while CE is driven high (R22). -/
def FrameNeedsCe (s : State) : Prop := s.frame.isSome = true → s.pads.ceLvl = true ∧ s.pads.ceDir = .output

/-- The sequencer holds a legal word whose ARG byte is S_ARG (R26, R33, R35). -/
def SequencerLegal (s : State) : Prop :=
  ∀ q, s.seq = some q → illegalWord (opcOf q.word) (argOf q.word) = false ∧ s.snap.arg = argOf q.word

/-- The invariant of the machine: the five properties together. -/
structure Invariant (s : State) : Prop where
  padsFollowTrace : PadsFollowTrace s
  ceClkOutputs : CeClkOutputs s
  errNotReserved : ErrNotReserved s
  frameNeedsCe : FrameNeedsCe s
  sequencerLegal : SequencerLegal s

/-- A peripheral with the registers of `rp`, which an act would have turned into those of `rq`, was cut to `rc`: each register
is a draw, or no act would have changed it and the cut has not (R292). -/
def DrawnOrKept (rp rq rc : RefPeripheral) : Prop :=
  (∀ k, k < 9 → (∃ n, rc.reg k = Config.freeByte n) ∨ rc.reg k = rp.reg k ∧ rq.reg k = rp.reg k) ∧
  ∀ k, k < 31 → (∃ n, rc.ram k = Config.freeByte n) ∨ rc.ram k = rp.ram k ∧ rq.ram k = rp.ram k

end Sys2Proof.Machine
end

