-- ==== Sys2Proof/Certificates/Slice0/Obligations.lean ====
section
/-! DEFINITION. The statements for the provers, in the order of OBLIGATIONS.json. -/

open Sys2Proof Sys2Proof.Machine

/-! ### Encodings -/

/-- Decoding the encoding of a well-formed instruction gives it back (R102 to R107, R63). -/
def Obligations.DecodeEncode : Prop :=
  ∀ i : Instr, WellFormed i = true → decode (encode i) = .ok i

/-- R107, with the field ids of R103 and the block ids of R104. -/
def Obligations.DecodeProcedure : Prop :=
  ∀ opc arg : Byte,
    decodeWord (opWord opc arg) =
      if opc = 0x01 then .ok (.wrbits arg)
      else if opc = 0x02 then .ok .rdbits
      else if opc = 0x03 then .ok (.rdbyte arg)
      else if opc = 0x04 then .ok (.wrbyte arg)
      else if opc = 0x05 then
        if arg = 0 then .ok .rdburstClock else if arg = 1 then .ok .rdburstRam else .error .illegalBlock
      else if opc = 0x06 then
        if arg = 0 then .ok .wrburstClock else if arg = 1 then .ok .wrburstRam else .error .illegalBlock
      else if opc = 0x07 then
        match fieldReads[arg.toNat]? with
        | some i => .ok i
        | none => .error .illegalField
      else if opc = 0x08 then
        match fieldWrites[arg.toNat]? with
        | some i => .ok i
        | none => .error .illegalField
      else if opc = 0x09 then .ok .gettime
      else if opc = 0x0A then .ok .settime
      else .error .illegalOpcode

/-- R106: a word is illegal exactly where the decoder refuses it. -/
def Obligations.IllegalWords : Prop :=
  ∀ w : OpWord, illegalWord (opcOf w) (argOf w) = true ↔ ∃ why, decodeWord w = .error why

/-- R106, R105: a legal word is the encoding of the instruction it decodes to, up to the ARG byte of the three
instructions that do not use it. That these three encode with ARG = 0 is the model's own choice (log entry 10). -/
def Obligations.LegalWordsEncode : Prop :=
  ∀ (w : OpWord) (i : Instr), decodeWord w = .ok i →
    encode i = .op16 w ∨
      (i = .rdbits ∨ i = .gettime ∨ i = .settime) ∧ encode i = .op16 (opWord (opcOf w) 0)

/-- R62, R63, R150: the command bytes of the map decode to their instructions and hold direction, index and address
space where R62 says; no other byte is a command of the map. -/
def Obligations.CommandMap : Prop :=
  (∀ r ∈ registerMap,
    decodeCommand r.readCmd = .ok r.read ∧ decodeCommand r.writeCmd = .ok r.write ∧
      r.readCmd.toNat = 128 + 2 * r.index + 1 ∧ r.writeCmd.toNat = 128 + 2 * r.index ∧
      cmdReads r.readCmd = true ∧ cmdReads r.writeCmd = false ∧
      cmdIdx r.readCmd = r.index ∧ cmdIdx r.writeCmd = r.index ∧
      cmdSpace r.readCmd = 2 ∧ cmdSpace r.writeCmd = 2) ∧
  (decodeCommand 0xBF = .ok .cmdRdClockBurst ∧ decodeCommand 0xBE = .ok .cmdWrClockBurst ∧
    cmdReads 0xBF = true ∧ cmdReads 0xBE = false ∧ cmdIdx 0xBF = 31 ∧ cmdIdx 0xBE = 31 ∧
    cmdSpace 0xBF = 2 ∧ cmdSpace 0xBE = 2) ∧
  ∀ c : Byte, listedCommand c = true ↔ ∃ i, decodeCommand c = .ok i

/-- One word of each family, written out from the opcode map (R102 to R104), and two illegal ones (R106). -/
def Obligations.SampleWords : Prop :=
  decodeWord 0b0000000110100101 = .ok (.wrbits 0xA5) ∧
  decodeWord 0b0000001110000011 = .ok (.rdbyte 0x83) ∧
  decodeWord 0b0000010010000010 = .ok (.wrbyte 0x82) ∧
  decodeWord 0b0000010100000001 = .ok .rdburstRam ∧
  decodeWord 0b0000011000000000 = .ok .wrburstClock ∧
  decodeWord 0b0000011100000010 = .ok .rdfieldHour ∧
  decodeWord 0b0000100000001100 = .ok .wrfieldTrickle ∧
  decodeWord 0b0000101000000000 = .ok .settime ∧
  decodeWord 0b0000011100001101 = .error .illegalField ∧
  decodeWord 0b0000101100000000 = .error .illegalOpcode

/-! ### Steps -/

/-- A step of the controller runs the instruction its sequencer's word decodes to (R33). The second clause is about
`withFetchWord`, the model's own stand-in for a request (log entry 8). -/
def Obligations.StepRunsOperation : Prop :=
  (∀ (s : State) (q : Sequencer) (i : Instr),
    (∀ f, s.frame = some f → f.turn = false) → s.hostDue = false → s.seq = some q → decodeWord q.word = .ok i →
      step s = exec i s) ∧
  ∀ (s : State) (w : Nat) (i : Instr), decodeTableWord 16 w = some i →
    step (s.withFetchWord 16 w) = exec i (s.withFetchWord 16 w) ∧ Started i (s.withFetchWord 16 w)

/-- A step of the peripheral runs the instruction the received command byte decodes to; an unlisted byte gets the same
treatment without being an instruction. All of this is the model's own choice: that a command byte is an instruction, that
the peripheral's turn comes before a due host act, and the treatment of unlisted bytes (log entry 19), the moment of the
turn (log entry 11), `withFetchWord` (log entry 8). R4 says only that the peripheral is an agent. -/
def Obligations.StepRunsCommand : Prop :=
  (∀ (s : State) (f : Frame) (i : Instr),
    s.frame = some f → f.turn = true → decodeCommand f.cmd = .ok i → step s = exec i s) ∧
  (∀ (s : State) (f : Frame) (why : Reject),
    s.frame = some f → f.turn = true → decodeCommand f.cmd = .error why → step s = .next (s.takeCommand f.cmd)) ∧
  ∀ (s : State) (w : Nat) (i : Instr), decodeTableWord 8 w = some i →
    step (s.withFetchWord 8 w) = exec i (s.withFetchWord 8 w)

/-- Whose step it is: that a pending turn of the peripheral goes before a due host act, and a due host act before the
controller, is the model's own choice (log entries 19 and 3), and so is when a host act is due (log entry 3). And the host's
step: with no act to come the block idles (R290). -/
def Obligations.HostTurn : Prop :=
  (∀ s : State, s.turn = .host ↔
    (∀ f, s.frame = some f → f.turn = false) ∧ (s.seq = none ∨ s.hostDue = true)) ∧
  ∀ s : State, s.turn = .host → s.inputs = [] → step s = .next s

/-- R33: with a host act due one step later, the controller has one line event and advances its index by one, or it
completes with no line event. That a host act waits a count of steps is the model's own choice (log entry 3). -/
def Obligations.OneEventPerStep : Prop :=
  ∀ (i : Instr) (s t : State) (q : Sequencer) (act : HostAct) (rest : List HostInput),
    s.seq = some q → decodeWord q.word = .ok i → s.inputs = ⟨.afterSteps 1, act⟩ :: rest → exec i s = .next t →
      t.inputs = ⟨.afterSteps 0, act⟩ :: rest ∧
      ((t.seq = none ∧ t.trace = s.trace) ∨
        ∃ e, t.trace = s.trace ++ [e] ∧
          t.seq = some
            { word := q.word, next := q.next + 1
              samples := q.samples ++ match e with
                | .sample b => [b]
                | _ => [] })

/-- R33, R35: an operation that stopped for a host act goes on, once the act is gone, as if it had not stopped.
That exec stops for a host act is the model's own choice (log entry 3). -/
def Obligations.ResumesWhereItStopped : Prop :=
  ∀ (i : Instr) (s t : State) (w : OpWord) (n : Nat) (act : HostAct) (rest : List HostInput),
    decodeWord w = .ok i → s.seq = some { word := w, next := 0, samples := [] } →
    s.inputs = ⟨.afterSteps n, act⟩ :: rest → ({ s with inputs := rest } : State).quiet = true →
    exec i s = .next t → t.seq ≠ none →
      exec i { t with inputs := rest } = exec i { s with inputs := rest }

/-! ### Requests -/

/-- R26, R35, R33: a legal request is accepted. -/
def Obligations.RequestAccepted : Prop :=
  ∀ (s : State) (m : When) (v : Byte) (rest : List HostInput) (i : Instr),
    s.turn = .host → s.inputs = ⟨m, .store 0 v⟩ :: rest → s.seq = none → decodeWord (opWord v s.arg) = .ok i →
      step s = .next { s with
        inputs := rest, ovr := false, err := 0
        snap := { arg := s.arg, data := s.data, tr := s.tr, buf := s.buf }
        seq := some { word := opWord v s.arg, next := 0, samples := [] } }

/-- R262, R26: an illegal request. -/
def Obligations.RequestIllegal : Prop :=
  ∀ (s : State) (m : When) (v : Byte) (rest : List HostInput),
    s.turn = .host → s.inputs = ⟨m, .store 0 v⟩ :: rest → s.seq = none → illegalWord v s.arg = true →
      step s = .next { s with inputs := rest, ovr := false, err := 0xF }

/-- R264, R266: a request while BUSY = 1 is dropped, whatever its word. -/
def Obligations.RequestOverrun : Prop :=
  ∀ (s : State) (m : When) (v : Byte) (rest : List HostInput) (q : Sequencer),
    s.turn = .host → s.inputs = ⟨m, .store 0 v⟩ :: rest → s.seq = some q →
      step s = .next { s with inputs := rest, ovr := true }

/-! ### Host registers -/

/-- R24, R25, R60, R61: what a load returns at every offset, and that it changes nothing of the block. The
log `reads` is the model's own (log entry 4). -/
def Obligations.HostLoad : Prop :=
  ∀ (s : State) (m : When) (a : Offset) (rest : List HostInput),
    s.turn = .host → s.inputs = ⟨m, .load a⟩ :: rest →
      ∃ x : Byte,
        step s = .next { s with inputs := rest, reads := s.reads ++ [{ offset := a, value := x }] } ∧
        x = if a = 0x01 then s.arg else if a = 0x02 then s.data else if a = 0x03 then s.result
          else if a = 0x04 then s.status
          else if a = 0x06 then s.tr.sec else if a = 0x07 then s.tr.min else if a = 0x08 then s.tr.hour
          else if a = 0x09 then s.tr.date else if a = 0x0A then s.tr.month else if a = 0x0B then s.tr.year
          else if a = 0x0C then s.tr.wday else if a = 0x0D then s.tr.fmt else if a = 0x0E then s.tr.mer
          else if 0x10 ≤ a.toNat ∧ a.toNat ≤ 0x2E then s.buf.byte (a.toNat - 0x10)
          else 0

/-- R24, R25, R61: a store to an offset other than OPC. A read/write register takes the byte, RESULT, STATUS and the
reserved offsets ignore it, and no other offset and no other state changes. -/
def Obligations.HostStore : Prop :=
  ∀ (s : State) (m : When) (a : Offset) (v : Byte) (rest : List HostInput),
    s.turn = .host → s.inputs = ⟨m, .store a v⟩ :: rest → a ≠ 0 →
      ∃ t, step s = .next t ∧
        t = { s with inputs := rest, arg := t.arg, data := t.data, tr := t.tr, buf := t.buf } ∧
        (a = 0x01 ∨ a = 0x02 ∨ 0x06 ≤ a.toNat ∧ a.toNat ≤ 0x0E ∨ 0x10 ≤ a.toNat ∧ a.toNat ≤ 0x2E →
          t.hostReg a = v) ∧
        (a = 0x03 ∨ a = 0x04 ∨ a = 0x05 ∨ a = 0x0F ∨ 0x2F ≤ a.toNat → t = { s with inputs := rest }) ∧
        ∀ b, b ≠ a → t.hostReg b = s.hostReg b

/-- R27, R36: the fields of STATUS. -/
def Obligations.StatusLayout : Prop :=
  ∀ s : State,
    (s.status.getLsbD 0 = true ↔ s.seq ≠ none) ∧ s.status.getLsbD 1 = s.ovr ∧ s.status.getLsbD 2 = false ∧
      s.status.getLsbD 3 = false ∧ s.status.extractLsb' 4 4 = s.err

/-! ### Reset -/

/-- R291: the reset values. -/
def Obligations.ResetValues : Prop :=
  State.reset.pads =
    { ceDir := .output, clkDir := .output, dioDir := .output, ceLvl := false, clkLvl := false, dioLvl := false } ∧
  (∀ a : Offset, State.reset.hostReg a = if a = 0x0E then 0xFF else 0) ∧
  State.reset.seq = none ∧ State.reset.trace = []

/-- R290, R291, R293: the reset input with no frame open. Everything of the block is as in `State.reset`; the peripheral
is not touched. (The cleared snapshot is zeros by the model's choice, log entry 1.) -/
def Obligations.ResetInput : Prop :=
  ∀ (s : State) (m : When) (rest : List HostInput),
    s.turn = .host → s.inputs = ⟨m, .reset⟩ :: rest → s.frame = none →
      step s = .next { State.reset with
        periph := s.periph, draws := s.draws, inputs := rest, reads := s.reads, params := s.params }

/-- R292, R293: a reset inside a frame. The device stays the device. On the reference peripheral a single write frame leaves
its register a draw, a burst write frame every register of the block, a read frame none. Whatever the command of a write frame
is, each register is a draw afterwards, or it is unchanged and the peripheral's act on the command would not have changed it
(of a read command there are two readings, log entry 21). Which draws they are, and that a cut uses 31, is the model's own
choice (log entries 2 and 12); the next state is `State.reset` but for the fields named, and its cleared snapshot is zeros by
the model's own choice (log entry 1). -/
def Obligations.ResetCutsFrame : Prop :=
  ∀ (s : State) (m : When) (rest : List HostInput) (f : Frame),
    s.turn = .host → s.inputs = ⟨m, .reset⟩ :: rest → s.frame = some f →
      ∃ pe, step s = .next { State.reset with
          periph := pe, draws := s.draws + 31, inputs := rest, reads := s.reads, params := s.params } ∧
        (s.periph = .device → pe = .device) ∧
        ∀ rp, s.periph = .reference rp → ∃ rp', pe = .reference rp' ∧
          (∀ n, f.kind = .rd ∨ f.kind = .brd n → rp' = rp) ∧
          (∀ d, ∀ r ∈ registerMap, f.kind = .wr d → f.cmd = r.writeCmd →
            rp' = rp.setReg r.index (Config.freeByte s.draws)) ∧
          (∀ ds, f.kind = .bwr ds → f.cmd = 0xBE →
            rp'.rpr = rp.rpr ∧ ∀ k, k < 9 → rp'.reg k = Config.freeByte (s.draws + k)) ∧
          (cmdReads f.cmd = true → rp.strayRead = .ignored → rp' = rp) ∧
          ∀ rq, (∃ d, f.kind = .wr d) ∨ (∃ ds, f.kind = .bwr ds) →
            (s.takeCommand f.cmd).periph = .reference rq → DrawnOrKept rp rq rp'

/-! ### BitTransport and ByteTransport -/

/-- R132, R130. Where DIO ends high, whether it stays so or goes low by one event more is left open by the model's own
choice (log entry 22). -/
def Obligations.WrbitsShiftsOut : Prop :=
  ∀ (b : Byte) (s : State), Started (.wrbits b) s →
    exec (.wrbits b) s =
      .next (s.ended (shiftOutEvents b) { s.pads with clkLvl := false, dioLvl := b.getLsbD 7 } s.periph s.draws 0)

/-- R133, R131: outside a frame every sample is a draw, whatever the peripheral (R80, R85). Where DIO ends high, whether
it stays so or goes low by one event more is left open by the model's own choice (log entry 22). -/
def Obligations.RdbitsShiftsIn : Prop :=
  ∀ s : State, Started .rdbits s →
    exec .rdbits s =
      .next { s.ended (shiftInEvents s.params.samplePhase (oracleByte s.draws)) { s.pads with clkLvl := false } s.periph
          (s.draws + 8) 0 with
        result := oracleByte s.draws }

/-- R144, R142, with the device's and the reference peripheral's answer (R80, R86, R90). -/
def Obligations.RdbyteReads : Prop :=
  ∀ (c : Byte) (s : State), Started (.rdbyte c) s →
    ∃ v pe d,
      exec (.rdbyte c) s =
        .next { s.ended (rdXferEvents s.params.samplePhase c v) (padsAfterRead c) pe d 0 with result := v } ∧
      (s.periph = .device → v = oracleByte s.draws ∧ pe = .device ∧ d = s.draws + 8) ∧
      (∀ rp, s.periph = .reference rp → cmdReads c = true →
        pe = .reference rp ∧ (cmdSpace c = 2 → cmdIdx c ≤ 8 → v = rp.reg (cmdIdx c)) ∧
          (cmdSpace c = 2 → cmdIdx c = 31 → v = rp.reg 0)) ∧
      ∀ rp, s.periph = .reference rp → cmdReads c = false → (∃ n, v = oracleByte n) ∧
        (cmdSpace c = 2 → cmdIdx c ≤ 8 →
          pe = .reference (if cmdIdx c = 7 ∨ (rp.reg 7).getLsbD 7 = false then
            rp.setReg (cmdIdx c) (Config.freeByte s.draws) else rp))

/-- R145, R143, with no guard, and what the reference peripheral makes of it (R87). Of a read command in this write frame
there are two readings, and the model has both by its own choice (log entry 21). Where DIO ends high, whether it stays so
or goes low by one event more is left open by the model's own choice (log entry 22). -/
def Obligations.WrbyteWrites : Prop :=
  ∀ (c : Byte) (s : State), Started (.wrbyte c) s →
    ∃ pe d,
      exec (.wrbyte c) s =
        .next (s.ended (wrXferEvents c s.snap.data) (padsAfterWrite s.snap.data) pe d 0) ∧
      (s.periph = .device → pe = .device ∧ d = s.draws) ∧
      ∀ rp, s.periph = .reference rp →
        (cmdReads c = true → rp.strayRead = .ignored → pe = .reference rp ∧ d = s.draws) ∧
        (cmdReads c = true → rp.strayRead = .drawn → cmdSpace c = 2 → cmdIdx c ≤ 8 →
          pe = .reference (if cmdIdx c = 7 ∨ (rp.reg 7).getLsbD 7 = false then
            rp.setReg (cmdIdx c) (Config.freeByte s.draws) else rp)) ∧
        (cmdReads c = false → d = s.draws) ∧
        (cmdReads c = false → cmdSpace c = 2 → cmdIdx c ≤ 8 →
          pe = .reference (if cmdIdx c = 7 ∨ (rp.reg 7).getLsbD 7 = false then rp.setReg (cmdIdx c) s.snap.data else rp)) ∧
        (cmdReads c = false → cmdSpace c ≤ 1 ∨ cmdSpace c = 2 ∧ 9 ≤ cmdIdx c ∨ cmdSpace c = 3 ∧ cmdIdx c = 31 →
          pe = .reference rp)

/-! ### BurstTransport -/

/-- R153, R151, R86: BUF[0..8] take the nine bytes, BUF[9..30] are unchanged. -/
def Obligations.RdburstClockReads : Prop :=
  ∀ s : State, Started .rdburstClock s →
    ∃ (vs : List Byte) (buf : Buffer) (pe : Peripheral) (d : Nat),
      exec .rdburstClock s =
        .next { s.ended (burstRdEvents s.params.samplePhase 0xBF vs) (padsAfterRead 0xBF) pe d 0 with buf := buf } ∧
      vs.length = 9 ∧ (∀ k, k < 9 → buf.byte k = vs.getD k 0) ∧
      (∀ k, 9 ≤ k → k ≤ 30 → buf.byte k = s.buf.byte k) ∧
      (s.periph = .device → pe = .device ∧ ∀ k, k < 9 → vs.getD k 0 = oracleByte (s.draws + 8 * k)) ∧
      ∀ rp, s.periph = .reference rp → pe = .reference rp ∧ ∀ k, k < 9 → vs.getD k 0 = rp.reg k

/-- R154, R151, R86: BUF[0..30] take the 31 bytes, with the command byte of the parameter RAM_BURST_RD. -/
def Obligations.RdburstRamReads : Prop :=
  ∀ s : State, Started .rdburstRam s →
    ∃ (vs : List Byte) (buf : Buffer) (pe : Peripheral) (d : Nat),
      exec .rdburstRam s =
        .next { s.ended (burstRdEvents s.params.samplePhase s.params.ramBurstRd vs) (padsAfterRead s.params.ramBurstRd)
            pe d 0 with buf := buf } ∧
      vs.length = 31 ∧ (∀ k, k < 31 → buf.byte k = vs.getD k 0) ∧
      (s.periph = .device → pe = .device ∧ ∀ k, k < 31 → vs.getD k 0 = oracleByte (s.draws + 8 * k)) ∧
      ∀ rp, s.periph = .reference rp →
        (s.params.ramBurstRd = 0xBF → pe = .reference rp ∧ ∀ k, k < 9 → vs.getD k 0 = rp.reg k) ∧
        (s.params.ramBurstRd = 0xFF → pe = .reference rp ∧ ∀ k, k < 31 → vs.getD k 0 = rp.ram k)

/-- R155, R152, R88: nine bytes of the snapshot in one guarded frame. Where DIO ends high, whether it stays so or goes low
by one event more is left open by the model's own choice (log entry 22). -/
def Obligations.WrburstClockWrites : Prop :=
  ∀ s : State, Started .wrburstClock s →
    ∃ wp pe d,
      exec .wrburstClock s =
        .next (s.ended (guardedEvents s.params wp (burstWrEvents 0xBE ((List.range 9).map s.snap.buf.byte)))
          (padsAfterWrite (guardRestores s.params wp <<< 7)) pe d 0) ∧
      (s.periph = .device → pe = .device) ∧
      ∀ rp, s.periph = .reference rp →
        ∃ rp', pe = .reference rp' ∧ d = s.draws ∧ (s.params.wpRestore = .restorePrior → wp = rp.reg 7) ∧
          (∀ k, k ≤ 6 → rp'.reg k = s.snap.buf.byte k) ∧ rp'.reg 7 = guardRestores s.params wp <<< 7 ∧
          rp'.reg 8 = (if (s.snap.buf.byte 7).getLsbD 7 then rp.reg 8 else s.snap.buf.byte 8) ∧ rp'.rpr = rp.rpr

/-- R156, R152, R88: 31 bytes of the snapshot in one guarded frame, with the command byte of the parameter RAM_BURST_WR.
Where DIO ends high, whether it stays so or goes low by one event more is left open by the model's own choice (log entry
22). -/
def Obligations.WrburstRamWrites : Prop :=
  ∀ s : State, Started .wrburstRam s →
    ∃ wp pe d,
      exec .wrburstRam s =
        .next (s.ended
          (guardedEvents s.params wp (burstWrEvents s.params.ramBurstWr ((List.range 31).map s.snap.buf.byte)))
          (padsAfterWrite (guardRestores s.params wp <<< 7)) pe d 0) ∧
      (s.periph = .device → pe = .device) ∧
      ∀ rp, s.periph = .reference rp → s.params.ramBurstWr = 0xBE →
        ∃ rp', pe = .reference rp' ∧ d = s.draws ∧ (s.params.wpRestore = .restorePrior → wp = rp.reg 7) ∧
          (∀ k, k ≤ 6 → rp'.reg k = s.snap.buf.byte k) ∧ rp'.reg 7 = guardRestores s.params wp <<< 7 ∧
          rp'.reg 8 = (if (s.snap.buf.byte 7).getLsbD 7 then rp.reg 8 else s.snap.buf.byte 8) ∧ rp'.rpr = rp.rpr

/-! ### RegisterCodec, read path -/

/-- R172, R173, R175, R176, R178: the BCD fields. -/
def Obligations.RdfieldDigits : Prop :=
  ∀ (i : Instr) (w : OpWord) (c : Byte) (idx m : Nat),
    (i, w, c, idx, m) ∈ ([(.rdfieldSecond, 0x0700, 0x81, 0, 8), (.rdfieldMinute, 0x0701, 0x83, 1, 8),
      (.rdfieldDate, 0x0703, 0x87, 3, 4), (.rdfieldMonth, 0x0704, 0x89, 4, 2),
      (.rdfieldYear, 0x0706, 0x8D, 6, 16)] : List (Instr × OpWord × Byte × Nat × Nat)) →
    decodeWord w = .ok i ∧
    ∀ s : State, Started i s →
      ∃ v pe d x, ReadsRegister s idx v pe d ∧
        exec i s =
          .next { s.ended (rdXferEvents s.params.samplePhase c v) (padsAfterRead c) pe d 0 with result := x } ∧
        x.toNat = bcdValue v m

/-- R174: the hour, in the format its byte holds. -/
def Obligations.RdfieldHour : Prop :=
  decodeWord 0x0702 = .ok .rdfieldHour ∧
  ∀ s : State, Started .rdfieldHour s →
    ∃ v pe d x, ReadsRegister s 2 v pe d ∧
      exec .rdfieldHour s =
        .next { s.ended (rdXferEvents s.params.samplePhase 0x85 v) (padsAfterRead 0x85) pe d 0 with result := x } ∧
      x.toNat = if v.getLsbD 7 then bcdValue v 2 else bcdValue v 4

/-- R179 to R182, R171: the flags. -/
def Obligations.RdfieldFlags : Prop :=
  ∀ (i : Instr) (w : OpWord) (c : Byte) (idx n : Nat),
    (i, w, c, idx, n) ∈ ([(.rdfieldMeridiem, 0x0707, 0x85, 2, 5), (.rdfieldHourFormat, 0x0708, 0x85, 2, 7),
      (.rdfieldClockHalt, 0x0709, 0x81, 0, 7), (.rdfieldWriteProtect, 0x070A, 0x8F, 7, 7)] :
      List (Instr × OpWord × Byte × Nat × Nat)) →
    decodeWord w = .ok i ∧
    ∀ s : State, Started i s →
      ∃ v pe d, ReadsRegister s idx v pe d ∧
        exec i s =
          .next { s.ended (rdXferEvents s.params.samplePhase c v) (padsAfterRead c) pe d 0 with
            result := if v.getLsbD n then 1 else 0 }

/-- R177, R183, R184: the bytes that pass through. -/
def Obligations.RdfieldRaw : Prop :=
  ∀ (i : Instr) (w : OpWord) (c : Byte) (idx : Nat),
    (i, w, c, idx) ∈ ([(.rdfieldWeekday, 0x0705, 0x8B, 5), (.rdfieldRawHour, 0x070B, 0x85, 2),
      (.rdfieldTrickle, 0x070C, 0x91, 8)] : List (Instr × OpWord × Byte × Nat)) →
    decodeWord w = .ok i ∧
    ∀ s : State, Started i s →
      ∃ v pe d, ReadsRegister s idx v pe d ∧
        exec i s =
          .next { s.ended (rdXferEvents s.params.samplePhase c v) (padsAfterRead c) pe d 0 with result := v }

/-! ### RegisterCodec, write path -/

/-- R206, R207, R209, R210, R212, R203: the merging field writes. Where DIO ends high, whether it stays so or goes low by
one event more is left open by the model's own choice (log entry 22). -/
def Obligations.WrfieldMerges : Prop :=
  ∀ (i : Instr) (w : OpWord) (rc wc : Byte) (idx : Nat) (mask : Byte),
    (i, w, rc, wc, idx, mask) ∈ ([(.wrfieldSecond, 0x0800, 0x81, 0x80, 0, 0x7F),
      (.wrfieldMinute, 0x0801, 0x83, 0x82, 1, 0x7F), (.wrfieldDate, 0x0803, 0x87, 0x86, 3, 0x3F),
      (.wrfieldMonth, 0x0804, 0x89, 0x88, 4, 0x1F), (.wrfieldYear, 0x0806, 0x8D, 0x8C, 6, 0xFF)] :
      List (Instr × OpWord × Byte × Byte × Nat × Byte)) →
    decodeWord w = .ok i ∧
    ∀ s : State, Started i s →
      ∃ wp raw b pe d, MergedByte mask raw s.snap.data b ∧ GuardedWrite s idx raw (some b) wp pe d ∧
        exec i s = .next (s.ended (fieldWriteEvents s.params wp rc raw wc (some b))
          (padsAfterWrite (guardRestores s.params wp <<< 7)) pe d 0)

/-- R208: the hour, encoded in the format the device holds. Where DIO ends high, whether it stays so or goes low by one
event more is left open by the model's own choice (log entry 22). -/
def Obligations.WrfieldHour : Prop :=
  decodeWord 0x0802 = .ok .wrfieldHour ∧
  ∀ s : State, Started .wrfieldHour s →
    ∃ wp raw b pe d, HourByte raw s.snap.data b ∧ GuardedWrite s 2 raw (some b) wp pe d ∧
      exec .wrfieldHour s = .next (s.ended (fieldWriteEvents s.params wp 0x85 raw 0x84 (some b))
        (padsAfterWrite (guardRestores s.params wp <<< 7)) pe d 0)

/-- R211, R217, R218: the bytes written as given. Where DIO ends high, whether it stays so or goes low by one event more
is left open by the model's own choice (log entry 22). -/
def Obligations.WrfieldRaw : Prop :=
  ∀ (i : Instr) (w : OpWord) (wc : Byte) (idx : Nat),
    (i, w, wc, idx) ∈ ([(.wrfieldWeekday, 0x0805, 0x8A, 5), (.wrfieldRawHour, 0x080B, 0x84, 2),
      (.wrfieldTrickle, 0x080C, 0x90, 8)] : List (Instr × OpWord × Byte × Nat)) →
    decodeWord w = .ok i ∧
    ∀ s : State, Started i s →
      ∃ wp pe d, GuardedRawWrite s idx s.snap.data wp pe d ∧
        exec i s = .next (s.ended (rawWriteEvents s.params wp wc s.snap.data)
          (padsAfterWrite (guardRestores s.params wp <<< 7)) pe d 0)

/-- R213: the meridiem bit, in 12 h format only; the guard runs either way. Where DIO ends high, whether it stays so or
goes low by one event more is left open by the model's own choice (log entry 22). -/
def Obligations.WrfieldMeridiem : Prop :=
  decodeWord 0x0807 = .ok .wrfieldMeridiem ∧
  ∀ s : State, Started .wrfieldMeridiem s →
    ∃ wp raw b pe d, MeridiemByte raw s.snap.data b ∧ GuardedWrite s 2 raw b wp pe d ∧
      exec .wrfieldMeridiem s = .next (s.ended (fieldWriteEvents s.params wp 0x85 raw 0x84 b)
        (padsAfterWrite (guardRestores s.params wp <<< 7)) pe d 0)

/-- R214, R205: the hour format. Where DIO ends high, whether it stays so or goes low by one event more is left open by
the model's own choice (log entry 22). -/
def Obligations.WrfieldHourFormat : Prop :=
  decodeWord 0x0808 = .ok .wrfieldHourFormat ∧
  ∀ s : State, Started .wrfieldHourFormat s →
    ∃ wp raw b pe d, FormatByte raw s.snap.data b ∧ GuardedWrite s 2 raw b wp pe d ∧
      exec .wrfieldHourFormat s = .next (s.ended (fieldWriteEvents s.params wp 0x85 raw 0x84 b)
        (padsAfterWrite (guardRestores s.params wp <<< 7)) pe d 0)

/-- R215: the ClockHalt bit, the seconds digits kept. Where DIO ends high, whether it stays so or goes low by one event
more is left open by the model's own choice (log entry 22). -/
def Obligations.WrfieldClockHalt : Prop :=
  decodeWord 0x0809 = .ok .wrfieldClockHalt ∧
  ∀ s : State, Started .wrfieldClockHalt s →
    ∃ wp raw b pe d, GuardedWrite s 0 raw (some b) wp pe d ∧
      (∀ n, n < 8 → b.getLsbD n = if n = 7 then s.snap.data.getLsbD 0 else raw.getLsbD n) ∧
      exec .wrfieldClockHalt s = .next (s.ended (fieldWriteEvents s.params wp 0x81 raw 0x80 (some b))
        (padsAfterWrite (guardRestores s.params wp <<< 7)) pe d 0)

/-- R216, R202: the WP bit, written directly with no guard. Where DIO ends high, whether it stays so or goes low by one
event more is left open by the model's own choice (log entry 22). -/
def Obligations.WrfieldWriteProtect : Prop :=
  decodeWord 0x080A = .ok .wrfieldWriteProtect ∧
  ∀ (s : State) (b : Byte), Started .wrfieldWriteProtect s → b = (if s.snap.data.getLsbD 0 then 0x80 else 0x00) →
    ∃ pe,
      exec .wrfieldWriteProtect s = .next (s.ended (wrXferEvents 0x8E b) (padsAfterWrite b) pe s.draws 0) ∧
      (s.periph = .device → pe = .device) ∧
      ∀ rp, s.periph = .reference rp → pe = .reference (rp.setReg 7 b)

/-- R219, R307: every guarded field write and every burst write leaves the WP register of the reference peripheral at
0x80, or with RESTORE_PRIOR at its prior bit 7 with the other bits 0. -/
def Obligations.WpAfterGuardedWrite : Prop :=
  ∀ i ∈ ([.wrfieldSecond, .wrfieldMinute, .wrfieldHour, .wrfieldDate, .wrfieldMonth, .wrfieldWeekday, .wrfieldYear,
      .wrfieldMeridiem, .wrfieldHourFormat, .wrfieldClockHalt, .wrfieldRawHour, .wrfieldTrickle, .wrburstClock,
      .wrburstRam] : List Instr),
    ∀ (s : State) (rp : RefPeripheral), Started i s → s.periph = .reference rp →
      ∃ t rp', exec i s = .next t ∧ t.periph = .reference rp' ∧
        (s.params.wpRestore = .forceSet → rp'.reg 7 = 0x80) ∧
        (s.params.wpRestore = .restorePrior → rp'.reg 7 = if (rp.reg 7).getLsbD 7 then 0x80 else 0x00)

/-! ### TimeRecord sequencer -/

/-- R241: nine reads, the hour register three times, each read a draw of its own on the device (R38). -/
def Obligations.GettimeReads : Prop :=
  ∀ s : State, Started .gettime s →
    ∃ (r : Nat → Byte) (pe : Peripheral) (d : Nat) (rec : TimeRecord),
      exec .gettime s =
        .next { s.ended
            (rdXferEvents s.params.samplePhase 0x81 (r 0) ++ rdXferEvents s.params.samplePhase 0x83 (r 1) ++
              rdXferEvents s.params.samplePhase 0x85 (r 2) ++ rdXferEvents s.params.samplePhase 0x87 (r 3) ++
              rdXferEvents s.params.samplePhase 0x89 (r 4) ++ rdXferEvents s.params.samplePhase 0x8D (r 5) ++
              rdXferEvents s.params.samplePhase 0x8B (r 6) ++ rdXferEvents s.params.samplePhase 0x85 (r 7) ++
              rdXferEvents s.params.samplePhase 0x85 (r 8))
            (padsAfterRead 0x85) pe d 0 with tr := rec } ∧
      rec.sec.toNat = bcdValue (r 0) 8 ∧ rec.min.toNat = bcdValue (r 1) 8 ∧
      rec.hour.toNat = (if (r 2).getLsbD 7 then bcdValue (r 2) 2 else bcdValue (r 2) 4) ∧
      rec.date.toNat = bcdValue (r 3) 4 ∧ rec.month.toNat = bcdValue (r 4) 2 ∧ rec.year.toNat = bcdValue (r 5) 16 ∧
      rec.wday = r 6 ∧ rec.fmt = (if (r 7).getLsbD 7 then 1 else 0) ∧ rec.mer = (if (r 8).getLsbD 5 then 1 else 0) ∧
      (s.periph = .device → pe = .device ∧ ∀ k, k < 9 → r k = oracleByte (s.draws + 8 * k)) ∧
      ∀ rp, s.periph = .reference rp → pe = .reference rp ∧ d = s.draws ∧ r 0 = rp.reg 0 ∧ r 1 = rp.reg 1 ∧
        r 2 = rp.reg 2 ∧ r 3 = rp.reg 3 ∧ r 4 = rp.reg 4 ∧ r 5 = rp.reg 6 ∧ r 6 = rp.reg 5 ∧ r 7 = rp.reg 2 ∧
        r 8 = rp.reg 2

/-- R244, R263, R260: a record that fails validation. -/
def Obligations.SettimeRejects : Prop :=
  ∀ s : State, Started .settime s → firstFailure s.snap.tr ≠ 0 →
    exec .settime s = .next (s.ended [] s.pads s.periph s.draws (firstFailure s.snap.tr))

/-- R244, R243: a record that passes is written field by field, HOURFORMAT first and MERIDIEM last, each field in a guard
of its own. `wp k` and `raw k` are what the k-th field write read. Where DIO ends high, whether it stays so or goes low by
one event more is left open by the model's own choice (log entry 22). -/
def Obligations.SettimeWrites : Prop :=
  ∀ s : State, Started .settime s → firstFailure s.snap.tr = 0 →
    ∃ (wp raw b : Nat → Byte) (bf bm : Option Byte) (pe : Peripheral) (d : Nat),
      FormatByte (raw 0) s.snap.tr.fmt bf ∧ MergedByte 0x7F (raw 1) s.snap.tr.sec (b 1) ∧
      MergedByte 0x7F (raw 2) s.snap.tr.min (b 2) ∧ HourByte (raw 3) s.snap.tr.hour (b 3) ∧
      MergedByte 0x3F (raw 4) s.snap.tr.date (b 4) ∧ MergedByte 0x1F (raw 5) s.snap.tr.month (b 5) ∧
      MergedByte 0xFF (raw 6) s.snap.tr.year (b 6) ∧ MeridiemByte (raw 8) s.snap.tr.mer bm ∧
      (s.periph = .device → pe = .device) ∧
      exec .settime s = .next (s.ended
        (fieldWriteEvents s.params (wp 0) 0x85 (raw 0) 0x84 bf ++
          fieldWriteEvents s.params (wp 1) 0x81 (raw 1) 0x80 (some (b 1)) ++
          fieldWriteEvents s.params (wp 2) 0x83 (raw 2) 0x82 (some (b 2)) ++
          fieldWriteEvents s.params (wp 3) 0x85 (raw 3) 0x84 (some (b 3)) ++
          fieldWriteEvents s.params (wp 4) 0x87 (raw 4) 0x86 (some (b 4)) ++
          fieldWriteEvents s.params (wp 5) 0x89 (raw 5) 0x88 (some (b 5)) ++
          fieldWriteEvents s.params (wp 6) 0x8D (raw 6) 0x8C (some (b 6)) ++
          rawWriteEvents s.params (wp 7) 0x8A s.snap.tr.wday ++
          if s.snap.tr.fmt = 1 then fieldWriteEvents s.params (wp 8) 0x85 (raw 8) 0x84 bm else [])
        (padsAfterWrite (guardRestores s.params (wp (if s.snap.tr.fmt = 1 then 8 else 7)) <<< 7)) pe d 0)

/-- R245: after a successful SETTIME on the reference peripheral the hour register holds the record's hour in the
record's format with the record's meridiem, whatever it held before. -/
def Obligations.SettimeHourRegister : Prop :=
  ∀ (s : State) (rp : RefPeripheral), Started .settime s → firstFailure s.snap.tr = 0 → s.periph = .reference rp →
      ∃ t rp', exec .settime s = .next t ∧ t.periph = .reference rp' ∧
        (s.snap.tr.fmt = 1 → Hour12Byte s.snap.tr.hour.toNat (s.snap.tr.mer.getLsbD 0) (rp'.reg 2)) ∧
        (s.snap.tr.fmt = 0 → Hour24Byte s.snap.tr.hour.toNat (rp'.reg 2)) ∧
        (s.params.wpRestore = .forceSet → rp'.reg 7 = 0x80) ∧ rp'.rpr = rp.rpr ∧ rp'.reg 8 = rp.reg 8

/-- R246: SETTIME and then GETTIME on the reference peripheral leave TR_* equal to the record, but for TR_MER in 24 h
format, which is bit 5 of the hour byte. Derived from R241, R245 and R220: it takes every record that passes validation,
while R246 assumes the ranges of the source's data model. -/
def Obligations.SetThenGet : Prop :=
  ∀ (s : State) (rp : RefPeripheral), Started .settime s → firstFailure s.snap.tr = 0 → s.periph = .reference rp →
    ∃ t u, exec .settime s = .next t ∧ exec .gettime (t.hostStore 0 0x09) = .next u ∧
      u.tr = { s.snap.tr with
        mer := if s.snap.tr.fmt = 1 then s.snap.tr.mer else if 20 ≤ s.snap.tr.hour.toNat then 1 else 0 }

/-! ### The peripheral's instructions -/

/-- R86: a read command of a single register. The first byte of a read frame is the register, any further byte a draw. -/
def Obligations.CmdReadAnswers : Prop :=
  ∀ r ∈ registerMap, ∀ (s : State) (f : Frame) (rp : RefPeripheral) (n : Nat),
    s.frame = some f → (f.kind = .rd ∧ n = 1 ∨ f.kind = .brd n) → s.periph = .reference rp →
      exec r.read s =
        .next { s with frame := some { f with
          turn := false
          resp := (List.range n).map fun k => if k = 0 then some (rp.reg r.index) else none } }

/-- R87: a write command of a single register, gated by WP. In a burst write frame it changes nothing (R88). -/
def Obligations.CmdWriteTakes : Prop :=
  ∀ r ∈ registerMap, ∀ (s : State) (f : Frame) (rp : RefPeripheral), s.frame = some f → s.periph = .reference rp →
    (∀ d, f.kind = .wr d →
      exec r.write s = .next { s with
        frame := some { f with turn := false }
        periph := .reference
          (if r.index = 7 ∨ (rp.reg 7).getLsbD 7 = false then rp.setReg r.index d else rp) }) ∧
    ∀ ds, f.kind = .bwr ds → exec r.write s = .next { s with frame := some { f with turn := false } }

/-- R86: the clock-burst read command. -/
def Obligations.CmdClockBurstReads : Prop :=
  ∀ (s : State) (f : Frame) (rp : RefPeripheral) (n : Nat),
    s.frame = some f → (f.kind = .rd ∧ n = 1 ∨ f.kind = .brd n) → s.periph = .reference rp →
      exec .cmdRdClockBurst s =
        .next { s with frame := some { f with
          turn := false
          resp := (List.range n).map fun k => if k ≤ 8 then some (rp.reg k) else none } }

/-- R88: the clock-burst write command. Each byte meets the gate as it stands when it completes, so byte 7 decides on
byte 8; bytes past 8 are ignored. In a single write frame it changes nothing (R87). -/
def Obligations.CmdClockBurstWrites : Prop :=
  ∀ (s : State) (f : Frame) (rp : RefPeripheral), s.frame = some f → s.periph = .reference rp →
    (∀ ds : List Byte, f.kind = .bwr ds → 9 ≤ ds.length →
      ∃ rp', exec .cmdWrClockBurst s =
          .next { s with frame := some { f with turn := false }, periph := .reference rp' } ∧
        (∀ k, k ≤ 6 → rp'.reg k = if (rp.reg 7).getLsbD 7 then rp.reg k else ds.getD k 0) ∧
        rp'.reg 7 = ds.getD 7 0 ∧
        rp'.reg 8 = (if (ds.getD 7 0).getLsbD 7 then rp.reg 8 else ds.getD 8 0) ∧ rp'.rpr = rp.rpr) ∧
    ∀ d, f.kind = .wr d → exec .cmdWrClockBurst s = .next { s with frame := some { f with turn := false } }

/-- R90: a write command in a read frame makes the register a draw where the gate lets it; which draw it is, is the model's
own choice (log entry 2). Of a read command in a write frame there are two readings, it changes nothing or it makes the
register a draw, and the model has both by its own choice (log entry 21). -/
def Obligations.CmdMismatch : Prop :=
  ∀ (s : State) (f : Frame) (rp : RefPeripheral), s.frame = some f → s.periph = .reference rp →
    (∀ r ∈ registerMap, f.kind = .rd →
      exec r.write s = .next { s with
        frame := some { f with turn := false }
        periph := .reference
          (if r.index = 7 ∨ (rp.reg 7).getLsbD 7 = false then rp.setReg r.index (Config.freeByte s.draws) else rp)
        draws := s.draws + 1 }) ∧
    (rp.strayRead = .ignored → (∃ d, f.kind = .wr d) ∨ (∃ ds, f.kind = .bwr ds) →
      (∀ r ∈ registerMap, exec r.read s = .next { s with frame := some { f with turn := false } }) ∧
        exec .cmdRdClockBurst s = .next { s with frame := some { f with turn := false } }) ∧
    (rp.strayRead = .drawn → ∀ n, (∃ d, f.kind = .wr d) ∧ n = 1 ∨ (∃ ds, f.kind = .bwr ds ∧ ds.length = n) →
      ∀ r ∈ registerMap, exec r.read s = .next { s with
        frame := some { f with turn := false }
        periph := .reference
          (if r.index = 7 ∨ (rp.reg 7).getLsbD 7 = false then rp.setReg r.index (Config.freeByte s.draws) else rp)
        draws := s.draws + n })

/-- On the device a command byte only ends the peripheral's turn, and outside a frame it has no effect on either
peripheral. Both are the model's own choice (log entry 19), made so that the device shows the block nothing but the level
of DIO (R4). -/
def Obligations.CmdOnDevice : Prop :=
  ∀ i ∈ commands, ∀ s : State,
    (∀ f, s.frame = some f → s.periph = .device →
      exec i s = .next { s with frame := some { f with turn := false } }) ∧
    (s.frame = none → exec i s = .next s)

/-! ### The codec -/

/-- R220: encode, then decode, for any byte the register held before. -/
def Obligations.BcdRoundTrip : Prop :=
  ∀ raw v : Byte,
    (v.toNat ≤ 79 → decodeSecond (merge raw (bcd v) 0x7F) = v ∧ decodeMinute (merge raw (bcd v) 0x7F) = v) ∧
    (v.toNat ≤ 39 → decodeHour (enc24 v) = v ∧ decodeDate (merge raw (bcd v) 0x3F) = v) ∧
    (v.toNat ≤ 12 → ∀ m : Byte, m.toNat ≤ 1 → decodeHour (enc12 v m) = v ∧ decodeMeridiem (enc12 v m) = m) ∧
    (v.toNat ≤ 19 → decodeMonth (merge raw (bcd v) 0x1F) = v) ∧
    (v.toNat ≤ 159 → decodeYear (merge raw (bcd v) 0xFF) = v)

/-- R205: the two format conversions undo each other, and the corners at 12 and 0. -/
def Obligations.FormatRoundTrip : Prop :=
  (∀ h : Byte, h.toNat ≤ 23 → to24 (to12 h).1 (to12 h).2 = h) ∧
  (∀ h m : Byte, 1 ≤ h.toNat → h.toNat ≤ 12 → m.toNat ≤ 1 → to12 (to24 h m) = (h, m)) ∧
  to12 12 = (12, 0) ∧ to12 0 = (0, 0) ∧ to24 12 1 = 24 ∧ to24 12 0 = 12

/-- R185: the largest value of each decode, and the byte that gives it. -/
def Obligations.DecodeRanges : Prop :=
  (∀ raw : Byte, (decodeSecond raw).toNat ≤ 85 ∧ (decodeMinute raw).toNat ≤ 85 ∧
    (raw.getLsbD 7 = false → (decodeHour raw).toNat ≤ 45) ∧ (raw.getLsbD 7 = true → (decodeHour raw).toNat ≤ 25) ∧
    (decodeDate raw).toNat ≤ 45 ∧ (decodeMonth raw).toNat ≤ 25 ∧ (decodeYear raw).toNat ≤ 165 ∧
    decodeWeekday raw = raw ∧ decodeRawHour raw = raw ∧ decodeTrickle raw = raw ∧
    (decodeMeridiem raw).toNat ≤ 1 ∧ (decodeHourFormat raw).toNat ≤ 1 ∧ (decodeClockHalt raw).toNat ≤ 1 ∧
    (decodeWriteProtect raw).toNat ≤ 1) ∧
  decodeSecond 0x7F = 85 ∧ decodeMinute 0x7F = 85 ∧ decodeHour 0x3F = 45 ∧ decodeHour 0x9F = 25 ∧
  decodeDate 0x3F = 45 ∧ decodeMonth 0x1F = 25 ∧ decodeYear 0xFF = 165 ∧ decodeMeridiem 0x20 = 1 ∧
  decodeHourFormat 0x80 = 1 ∧ decodeClockHalt 0x80 = 1 ∧ decodeWriteProtect 0x80 = 1

/-- R242: the code of the first failing check, in the order of the rule. -/
def Obligations.ValidateFirstFailure : Prop :=
  ∀ r : TimeRecord, validate r = firstFailure r

/-! ### Rules of the whole machine -/

/-- Every step keeps the invariant: the pads are what the trace made of them (R21, R34), CE and CLK are outputs (R23),
no reserved code stands in ERR (R261), a frame is open only while CE is driven high (R22), and the sequencer holds a
legal word whose ARG is in the snapshot (R26, R35). -/
def Obligations.StepKeepsInv : Prop :=
  ∀ s t : State, Invariant s → step s = .next t → Invariant t

/-- The machine starts in the invariant (R291). -/
def Obligations.ResetInv : Prop := Invariant State.reset

/-- R24, R28 to R32: which host registers each instruction writes. ARG, DATA, OVR and the snapshot are never written;
RESULT only by RDBITS, RDBYTE and RDFIELD; the time record only by GETTIME; the buffer only by RDBURST. -/
def Obligations.InstructionsWriteOnly : Prop :=
  ∀ (i : Instr) (s t : State), exec i s = .next t →
    t.arg = s.arg ∧ t.data = s.data ∧ t.ovr = s.ovr ∧ t.snap = s.snap ∧ t.reads = s.reads ∧ t.params = s.params ∧
    (i ≠ .rdbits → (∀ c, i ≠ .rdbyte c) → i ∉ fieldReads → t.result = s.result) ∧
    (i ≠ .gettime → t.tr = s.tr) ∧
    (i ≠ .rdburstClock → i ≠ .rdburstRam → t.buf = s.buf)

/-- R34: no step but a reset takes an event from the trace. -/
def Obligations.TraceOnlyGrows : Prop :=
  ∀ s t : State, step s = .next t → (∃ es, t.trace = s.trace ++ es) ∨
    (s.turn = .host ∧ ∃ m rest, s.inputs = ⟨m, .reset⟩ :: rest)

/-- R35, R75: a host store to any register but OPC does not reach the running operation. What a completed GETTIME or
RDBURST writes is the same too (R31, R32), whatever the store put there. -/
def Obligations.SnapshotIsolates : Prop :=
  ∀ (i : Instr) (s t : State) (a : Offset) (v : Byte), exec i s = .next t →
    ∃ t', exec i (s.storeReg a v) = .next t' ∧
      t'.pads = t.pads ∧ t'.trace = t.trace ∧ t'.result = t.result ∧ t'.err = t.err ∧ t'.seq = t.seq ∧
      t'.frame = t.frame ∧ t'.periph = t.periph ∧ t'.draws = t.draws ∧ t'.inputs = t.inputs ∧
      (s.seq ≠ none → t.seq = none →
        (i = .gettime → t'.tr = t.tr) ∧
        (i = .rdburstClock → ∀ k, k < 9 → t'.buf.byte k = t.buf.byte k) ∧
        (i = .rdburstRam → ∀ k, k < 31 → t'.buf.byte k = t.buf.byte k))
end

