-- ==== Sys2Proof/Laws/State.lean ====
section
/-! SUPPORT. One lemma per field per update of the state, so that no later proof unfolds a record update. -/

namespace Sys2Proof.Machine

/-! `State.emit` -/

@[simp] theorem State.emit_pads (s : State) (e : LineEvent) : (s.emit e).pads = s.pads := rfl
@[simp] theorem State.emit_arg (s : State) (e : LineEvent) : (s.emit e).arg = s.arg := rfl
@[simp] theorem State.emit_data (s : State) (e : LineEvent) : (s.emit e).data = s.data := rfl
@[simp] theorem State.emit_result (s : State) (e : LineEvent) : (s.emit e).result = s.result := rfl
@[simp] theorem State.emit_ovr (s : State) (e : LineEvent) : (s.emit e).ovr = s.ovr := rfl
@[simp] theorem State.emit_err (s : State) (e : LineEvent) : (s.emit e).err = s.err := rfl
@[simp] theorem State.emit_tr (s : State) (e : LineEvent) : (s.emit e).tr = s.tr := rfl
@[simp] theorem State.emit_buf (s : State) (e : LineEvent) : (s.emit e).buf = s.buf := rfl
@[simp] theorem State.emit_snap (s : State) (e : LineEvent) : (s.emit e).snap = s.snap := rfl
@[simp] theorem State.emit_seq (s : State) (e : LineEvent) : (s.emit e).seq = s.seq.map fun q => { q with next := q.next + 1 } := rfl
@[simp] theorem State.emit_trace (s : State) (e : LineEvent) : (s.emit e).trace = s.trace ++ [e] := rfl
@[simp] theorem State.emit_frame (s : State) (e : LineEvent) : (s.emit e).frame = s.frame := rfl
@[simp] theorem State.emit_periph (s : State) (e : LineEvent) : (s.emit e).periph = s.periph := rfl
@[simp] theorem State.emit_draws (s : State) (e : LineEvent) : (s.emit e).draws = s.draws := rfl
@[simp] theorem State.emit_inputs (s : State) (e : LineEvent) : (s.emit e).inputs = countDown s.inputs := rfl
@[simp] theorem State.emit_reads (s : State) (e : LineEvent) : (s.emit e).reads = s.reads := rfl
@[simp] theorem State.emit_params (s : State) (e : LineEvent) : (s.emit e).params = s.params := rfl

/-! `State.takeCommand` and `State.settle` change the frame, the peripheral and the count of draws only. -/

@[simp] theorem State.takeCommand_pads (s : State) (c : Byte) : (s.takeCommand c).pads = s.pads := by
  unfold State.takeCommand; split <;> rfl
@[simp] theorem State.takeCommand_arg (s : State) (c : Byte) : (s.takeCommand c).arg = s.arg := by
  unfold State.takeCommand; split <;> rfl
@[simp] theorem State.takeCommand_data (s : State) (c : Byte) : (s.takeCommand c).data = s.data := by
  unfold State.takeCommand; split <;> rfl
@[simp] theorem State.takeCommand_result (s : State) (c : Byte) : (s.takeCommand c).result = s.result := by
  unfold State.takeCommand; split <;> rfl
@[simp] theorem State.takeCommand_ovr (s : State) (c : Byte) : (s.takeCommand c).ovr = s.ovr := by
  unfold State.takeCommand; split <;> rfl
@[simp] theorem State.takeCommand_err (s : State) (c : Byte) : (s.takeCommand c).err = s.err := by
  unfold State.takeCommand; split <;> rfl
@[simp] theorem State.takeCommand_tr (s : State) (c : Byte) : (s.takeCommand c).tr = s.tr := by
  unfold State.takeCommand; split <;> rfl
@[simp] theorem State.takeCommand_buf (s : State) (c : Byte) : (s.takeCommand c).buf = s.buf := by
  unfold State.takeCommand; split <;> rfl
@[simp] theorem State.takeCommand_snap (s : State) (c : Byte) : (s.takeCommand c).snap = s.snap := by
  unfold State.takeCommand; split <;> rfl
@[simp] theorem State.takeCommand_seq (s : State) (c : Byte) : (s.takeCommand c).seq = s.seq := by
  unfold State.takeCommand; split <;> rfl
@[simp] theorem State.takeCommand_trace (s : State) (c : Byte) : (s.takeCommand c).trace = s.trace := by
  unfold State.takeCommand; split <;> rfl
@[simp] theorem State.takeCommand_inputs (s : State) (c : Byte) : (s.takeCommand c).inputs = s.inputs := by
  unfold State.takeCommand; split <;> rfl
@[simp] theorem State.takeCommand_reads (s : State) (c : Byte) : (s.takeCommand c).reads = s.reads := by
  unfold State.takeCommand; split <;> rfl
@[simp] theorem State.takeCommand_params (s : State) (c : Byte) : (s.takeCommand c).params = s.params := by
  unfold State.takeCommand; split <;> rfl

@[simp] theorem State.settle_pads (s : State) : (s.settle).pads = s.pads := by
  unfold State.settle; split <;> [skip; rfl]; split <;> simp
@[simp] theorem State.settle_arg (s : State) : (s.settle).arg = s.arg := by
  unfold State.settle; split <;> [skip; rfl]; split <;> simp
@[simp] theorem State.settle_data (s : State) : (s.settle).data = s.data := by
  unfold State.settle; split <;> [skip; rfl]; split <;> simp
@[simp] theorem State.settle_result (s : State) : (s.settle).result = s.result := by
  unfold State.settle; split <;> [skip; rfl]; split <;> simp
@[simp] theorem State.settle_ovr (s : State) : (s.settle).ovr = s.ovr := by
  unfold State.settle; split <;> [skip; rfl]; split <;> simp
@[simp] theorem State.settle_err (s : State) : (s.settle).err = s.err := by
  unfold State.settle; split <;> [skip; rfl]; split <;> simp
@[simp] theorem State.settle_tr (s : State) : (s.settle).tr = s.tr := by
  unfold State.settle; split <;> [skip; rfl]; split <;> simp
@[simp] theorem State.settle_buf (s : State) : (s.settle).buf = s.buf := by
  unfold State.settle; split <;> [skip; rfl]; split <;> simp
@[simp] theorem State.settle_snap (s : State) : (s.settle).snap = s.snap := by
  unfold State.settle; split <;> [skip; rfl]; split <;> simp
@[simp] theorem State.settle_seq (s : State) : (s.settle).seq = s.seq := by
  unfold State.settle; split <;> [skip; rfl]; split <;> simp
@[simp] theorem State.settle_trace (s : State) : (s.settle).trace = s.trace := by
  unfold State.settle; split <;> [skip; rfl]; split <;> simp
@[simp] theorem State.settle_inputs (s : State) : (s.settle).inputs = s.inputs := by
  unfold State.settle; split <;> [skip; rfl]; split <;> simp
@[simp] theorem State.settle_reads (s : State) : (s.settle).reads = s.reads := by
  unfold State.settle; split <;> [skip; rfl]; split <;> simp
@[simp] theorem State.settle_params (s : State) : (s.settle).params = s.params := by
  unfold State.settle; split <;> [skip; rfl]; split <;> simp

/-! The primitives of R11. -/

@[simp] theorem State.setDir_pads (s : State) (l : Line) (d : Dir) : (s.setDir l d).pads = s.pads.setDir d l := by simp [State.setDir]
@[simp] theorem State.setDir_arg (s : State) (l : Line) (d : Dir) : (s.setDir l d).arg = s.arg := by simp [State.setDir]
@[simp] theorem State.setDir_data (s : State) (l : Line) (d : Dir) : (s.setDir l d).data = s.data := by simp [State.setDir]
@[simp] theorem State.setDir_result (s : State) (l : Line) (d : Dir) : (s.setDir l d).result = s.result := by simp [State.setDir]
@[simp] theorem State.setDir_ovr (s : State) (l : Line) (d : Dir) : (s.setDir l d).ovr = s.ovr := by simp [State.setDir]
@[simp] theorem State.setDir_err (s : State) (l : Line) (d : Dir) : (s.setDir l d).err = s.err := by simp [State.setDir]
@[simp] theorem State.setDir_tr (s : State) (l : Line) (d : Dir) : (s.setDir l d).tr = s.tr := by simp [State.setDir]
@[simp] theorem State.setDir_buf (s : State) (l : Line) (d : Dir) : (s.setDir l d).buf = s.buf := by simp [State.setDir]
@[simp] theorem State.setDir_snap (s : State) (l : Line) (d : Dir) : (s.setDir l d).snap = s.snap := by simp [State.setDir]
@[simp] theorem State.setDir_seq (s : State) (l : Line) (d : Dir) : (s.setDir l d).seq = s.seq.map fun q => { q with next := q.next + 1 } := by simp [State.setDir]
@[simp] theorem State.setDir_trace (s : State) (l : Line) (d : Dir) : (s.setDir l d).trace = s.trace ++ [.setDir l d] := by simp [State.setDir]
@[simp] theorem State.setDir_frame (s : State) (l : Line) (d : Dir) : (s.setDir l d).frame = s.settle.frame := by simp [State.setDir]
@[simp] theorem State.setDir_periph (s : State) (l : Line) (d : Dir) : (s.setDir l d).periph = s.settle.periph := by simp [State.setDir]
@[simp] theorem State.setDir_draws (s : State) (l : Line) (d : Dir) : (s.setDir l d).draws = s.settle.draws := by simp [State.setDir]
@[simp] theorem State.setDir_inputs (s : State) (l : Line) (d : Dir) : (s.setDir l d).inputs = countDown s.inputs := by simp [State.setDir]
@[simp] theorem State.setDir_reads (s : State) (l : Line) (d : Dir) : (s.setDir l d).reads = s.reads := by simp [State.setDir]
@[simp] theorem State.setDir_params (s : State) (l : Line) (d : Dir) : (s.setDir l d).params = s.params := by simp [State.setDir]

@[simp] theorem State.setLevel_pads (s : State) (l : Line) (v : Level) : (s.setLevel l v).pads = s.pads.setLevel v l := by simp [State.setLevel]
@[simp] theorem State.setLevel_arg (s : State) (l : Line) (v : Level) : (s.setLevel l v).arg = s.arg := by simp [State.setLevel]
@[simp] theorem State.setLevel_data (s : State) (l : Line) (v : Level) : (s.setLevel l v).data = s.data := by simp [State.setLevel]
@[simp] theorem State.setLevel_result (s : State) (l : Line) (v : Level) : (s.setLevel l v).result = s.result := by simp [State.setLevel]
@[simp] theorem State.setLevel_ovr (s : State) (l : Line) (v : Level) : (s.setLevel l v).ovr = s.ovr := by simp [State.setLevel]
@[simp] theorem State.setLevel_err (s : State) (l : Line) (v : Level) : (s.setLevel l v).err = s.err := by simp [State.setLevel]
@[simp] theorem State.setLevel_tr (s : State) (l : Line) (v : Level) : (s.setLevel l v).tr = s.tr := by simp [State.setLevel]
@[simp] theorem State.setLevel_buf (s : State) (l : Line) (v : Level) : (s.setLevel l v).buf = s.buf := by simp [State.setLevel]
@[simp] theorem State.setLevel_snap (s : State) (l : Line) (v : Level) : (s.setLevel l v).snap = s.snap := by simp [State.setLevel]
@[simp] theorem State.setLevel_seq (s : State) (l : Line) (v : Level) : (s.setLevel l v).seq = s.seq.map fun q => { q with next := q.next + 1 } := by simp [State.setLevel]
@[simp] theorem State.setLevel_trace (s : State) (l : Line) (v : Level) : (s.setLevel l v).trace = s.trace ++ [.setLevel l v] := by simp [State.setLevel]
@[simp] theorem State.setLevel_frame (s : State) (l : Line) (v : Level) : (s.setLevel l v).frame = s.settle.frame.bind fun f => f.see s.pads v l := by simp [State.setLevel]
@[simp] theorem State.setLevel_periph (s : State) (l : Line) (v : Level) : (s.setLevel l v).periph = s.settle.periph := by simp [State.setLevel]
@[simp] theorem State.setLevel_draws (s : State) (l : Line) (v : Level) : (s.setLevel l v).draws = s.settle.draws := by simp [State.setLevel]
@[simp] theorem State.setLevel_inputs (s : State) (l : Line) (v : Level) : (s.setLevel l v).inputs = countDown s.inputs := by simp [State.setLevel]
@[simp] theorem State.setLevel_reads (s : State) (l : Line) (v : Level) : (s.setLevel l v).reads = s.reads := by simp [State.setLevel]
@[simp] theorem State.setLevel_params (s : State) (l : Line) (v : Level) : (s.setLevel l v).params = s.params := by simp [State.setLevel]

@[simp] theorem State.openFrame_pads (s : State) (c : Byte) (kind : FrameKind) : (s.openFrame c kind).pads = s.pads.setLevel true .ce := by simp [State.openFrame]
@[simp] theorem State.openFrame_arg (s : State) (c : Byte) (kind : FrameKind) : (s.openFrame c kind).arg = s.arg := by simp [State.openFrame]
@[simp] theorem State.openFrame_data (s : State) (c : Byte) (kind : FrameKind) : (s.openFrame c kind).data = s.data := by simp [State.openFrame]
@[simp] theorem State.openFrame_result (s : State) (c : Byte) (kind : FrameKind) : (s.openFrame c kind).result = s.result := by simp [State.openFrame]
@[simp] theorem State.openFrame_ovr (s : State) (c : Byte) (kind : FrameKind) : (s.openFrame c kind).ovr = s.ovr := by simp [State.openFrame]
@[simp] theorem State.openFrame_err (s : State) (c : Byte) (kind : FrameKind) : (s.openFrame c kind).err = s.err := by simp [State.openFrame]
@[simp] theorem State.openFrame_tr (s : State) (c : Byte) (kind : FrameKind) : (s.openFrame c kind).tr = s.tr := by simp [State.openFrame]
@[simp] theorem State.openFrame_buf (s : State) (c : Byte) (kind : FrameKind) : (s.openFrame c kind).buf = s.buf := by simp [State.openFrame]
@[simp] theorem State.openFrame_snap (s : State) (c : Byte) (kind : FrameKind) : (s.openFrame c kind).snap = s.snap := by simp [State.openFrame]
@[simp] theorem State.openFrame_seq (s : State) (c : Byte) (kind : FrameKind) : (s.openFrame c kind).seq = s.seq.map fun q => { q with next := q.next + 1 } := by simp [State.openFrame]
@[simp] theorem State.openFrame_trace (s : State) (c : Byte) (kind : FrameKind) : (s.openFrame c kind).trace = s.trace ++ [.setLevel .ce true] := by simp [State.openFrame]
@[simp] theorem State.openFrame_frame (s : State) (c : Byte) (kind : FrameKind) : (s.openFrame c kind).frame = some { cmd := c, kind := kind, rises := 0, sampled := 0, resp := [], turn := false } := by simp [State.openFrame]
@[simp] theorem State.openFrame_periph (s : State) (c : Byte) (kind : FrameKind) : (s.openFrame c kind).periph = s.settle.periph := by simp [State.openFrame]
@[simp] theorem State.openFrame_draws (s : State) (c : Byte) (kind : FrameKind) : (s.openFrame c kind).draws = s.settle.draws := by simp [State.openFrame]
@[simp] theorem State.openFrame_inputs (s : State) (c : Byte) (kind : FrameKind) : (s.openFrame c kind).inputs = countDown s.inputs := by simp [State.openFrame]
@[simp] theorem State.openFrame_reads (s : State) (c : Byte) (kind : FrameKind) : (s.openFrame c kind).reads = s.reads := by simp [State.openFrame]
@[simp] theorem State.openFrame_params (s : State) (c : Byte) (kind : FrameKind) : (s.openFrame c kind).params = s.params := by simp [State.openFrame]

@[simp] theorem State.wait_pads (s : State) (n : Nat) : (s.wait n).pads = s.pads := by simp [State.wait]
@[simp] theorem State.wait_arg (s : State) (n : Nat) : (s.wait n).arg = s.arg := by simp [State.wait]
@[simp] theorem State.wait_data (s : State) (n : Nat) : (s.wait n).data = s.data := by simp [State.wait]
@[simp] theorem State.wait_result (s : State) (n : Nat) : (s.wait n).result = s.result := by simp [State.wait]
@[simp] theorem State.wait_ovr (s : State) (n : Nat) : (s.wait n).ovr = s.ovr := by simp [State.wait]
@[simp] theorem State.wait_err (s : State) (n : Nat) : (s.wait n).err = s.err := by simp [State.wait]
@[simp] theorem State.wait_tr (s : State) (n : Nat) : (s.wait n).tr = s.tr := by simp [State.wait]
@[simp] theorem State.wait_buf (s : State) (n : Nat) : (s.wait n).buf = s.buf := by simp [State.wait]
@[simp] theorem State.wait_snap (s : State) (n : Nat) : (s.wait n).snap = s.snap := by simp [State.wait]
@[simp] theorem State.wait_seq (s : State) (n : Nat) : (s.wait n).seq = s.seq.map fun q => { q with next := q.next + 1 } := by simp [State.wait]
@[simp] theorem State.wait_trace (s : State) (n : Nat) : (s.wait n).trace = s.trace ++ [.delay n] := by simp [State.wait]
@[simp] theorem State.wait_frame (s : State) (n : Nat) : (s.wait n).frame = s.settle.frame := by simp [State.wait]
@[simp] theorem State.wait_periph (s : State) (n : Nat) : (s.wait n).periph = s.settle.periph := by simp [State.wait]
@[simp] theorem State.wait_draws (s : State) (n : Nat) : (s.wait n).draws = s.settle.draws := by simp [State.wait]
@[simp] theorem State.wait_inputs (s : State) (n : Nat) : (s.wait n).inputs = countDown s.inputs := by simp [State.wait]
@[simp] theorem State.wait_reads (s : State) (n : Nat) : (s.wait n).reads = s.reads := by simp [State.wait]
@[simp] theorem State.wait_params (s : State) (n : Nat) : (s.wait n).params = s.params := by simp [State.wait]

@[simp] theorem State.sampled_pads (s : State) (b : Level) : (s.sampled b).pads = s.pads := by
  simp [State.sampled, Function.comp_def]
@[simp] theorem State.sampled_arg (s : State) (b : Level) : (s.sampled b).arg = s.arg := by
  simp [State.sampled, Function.comp_def]
@[simp] theorem State.sampled_data (s : State) (b : Level) : (s.sampled b).data = s.data := by
  simp [State.sampled, Function.comp_def]
@[simp] theorem State.sampled_result (s : State) (b : Level) : (s.sampled b).result = s.result := by
  simp [State.sampled, Function.comp_def]
@[simp] theorem State.sampled_ovr (s : State) (b : Level) : (s.sampled b).ovr = s.ovr := by
  simp [State.sampled, Function.comp_def]
@[simp] theorem State.sampled_err (s : State) (b : Level) : (s.sampled b).err = s.err := by
  simp [State.sampled, Function.comp_def]
@[simp] theorem State.sampled_tr (s : State) (b : Level) : (s.sampled b).tr = s.tr := by
  simp [State.sampled, Function.comp_def]
@[simp] theorem State.sampled_buf (s : State) (b : Level) : (s.sampled b).buf = s.buf := by
  simp [State.sampled, Function.comp_def]
@[simp] theorem State.sampled_snap (s : State) (b : Level) : (s.sampled b).snap = s.snap := by
  simp [State.sampled, Function.comp_def]
@[simp] theorem State.sampled_seq (s : State) (b : Level) : (s.sampled b).seq = s.seq.map fun q => { q with next := q.next + 1, samples := q.samples ++ [b] } := by
  simp [State.sampled, Function.comp_def]
@[simp] theorem State.sampled_trace (s : State) (b : Level) : (s.sampled b).trace = s.trace ++ [.sample b] := by
  simp [State.sampled, Function.comp_def]
@[simp] theorem State.sampled_frame (s : State) (b : Level) : (s.sampled b).frame = s.frame.map fun f => { f with sampled := f.sampled + 1 } := by
  simp [State.sampled, Function.comp_def]
@[simp] theorem State.sampled_periph (s : State) (b : Level) : (s.sampled b).periph = s.periph := by
  simp [State.sampled, Function.comp_def]
@[simp] theorem State.sampled_draws (s : State) (b : Level) : (s.sampled b).draws = if s.laidOut.isSome then s.draws else s.draws + 1 := by
  simp [State.sampled, Function.comp_def]
@[simp] theorem State.sampled_inputs (s : State) (b : Level) : (s.sampled b).inputs = countDown s.inputs := by
  simp [State.sampled, Function.comp_def]
@[simp] theorem State.sampled_reads (s : State) (b : Level) : (s.sampled b).reads = s.reads := by
  simp [State.sampled, Function.comp_def]
@[simp] theorem State.sampled_params (s : State) (b : Level) : (s.sampled b).params = s.params := by
  simp [State.sampled, Function.comp_def]

/-! Acceptance, completion, reset. -/

@[simp] theorem State.accept_pads (s : State) (w : OpWord) : (s.accept w).pads = s.pads := rfl
@[simp] theorem State.accept_arg (s : State) (w : OpWord) : (s.accept w).arg = s.arg := rfl
@[simp] theorem State.accept_data (s : State) (w : OpWord) : (s.accept w).data = s.data := rfl
@[simp] theorem State.accept_result (s : State) (w : OpWord) : (s.accept w).result = s.result := rfl
@[simp] theorem State.accept_ovr (s : State) (w : OpWord) : (s.accept w).ovr = false := rfl
@[simp] theorem State.accept_err (s : State) (w : OpWord) : (s.accept w).err = errOk := rfl
@[simp] theorem State.accept_tr (s : State) (w : OpWord) : (s.accept w).tr = s.tr := rfl
@[simp] theorem State.accept_buf (s : State) (w : OpWord) : (s.accept w).buf = s.buf := rfl
@[simp] theorem State.accept_snap (s : State) (w : OpWord) : (s.accept w).snap = s.operands := rfl
@[simp] theorem State.accept_seq (s : State) (w : OpWord) : (s.accept w).seq = some { word := w, next := 0, samples := [] } := rfl
@[simp] theorem State.accept_trace (s : State) (w : OpWord) : (s.accept w).trace = s.trace := rfl
@[simp] theorem State.accept_frame (s : State) (w : OpWord) : (s.accept w).frame = s.frame := rfl
@[simp] theorem State.accept_periph (s : State) (w : OpWord) : (s.accept w).periph = s.periph := rfl
@[simp] theorem State.accept_draws (s : State) (w : OpWord) : (s.accept w).draws = s.draws := rfl
@[simp] theorem State.accept_inputs (s : State) (w : OpWord) : (s.accept w).inputs = s.inputs := rfl
@[simp] theorem State.accept_reads (s : State) (w : OpWord) : (s.accept w).reads = s.reads := rfl
@[simp] theorem State.accept_params (s : State) (w : OpWord) : (s.accept w).params = s.params := rfl

@[simp] theorem State.writeResult_pads (s : State) (r : OpResult) : (s.writeResult r).pads = s.pads := by cases r <;> rfl
@[simp] theorem State.writeResult_arg (s : State) (r : OpResult) : (s.writeResult r).arg = s.arg := by cases r <;> rfl
@[simp] theorem State.writeResult_data (s : State) (r : OpResult) : (s.writeResult r).data = s.data := by cases r <;> rfl
@[simp] theorem State.writeResult_ovr (s : State) (r : OpResult) : (s.writeResult r).ovr = s.ovr := by cases r <;> rfl
@[simp] theorem State.writeResult_err (s : State) (r : OpResult) : (s.writeResult r).err = s.err := by cases r <;> rfl
@[simp] theorem State.writeResult_snap (s : State) (r : OpResult) : (s.writeResult r).snap = s.snap := by cases r <;> rfl
@[simp] theorem State.writeResult_seq (s : State) (r : OpResult) : (s.writeResult r).seq = s.seq := by cases r <;> rfl
@[simp] theorem State.writeResult_trace (s : State) (r : OpResult) : (s.writeResult r).trace = s.trace := by cases r <;> rfl
@[simp] theorem State.writeResult_frame (s : State) (r : OpResult) : (s.writeResult r).frame = s.frame := by cases r <;> rfl
@[simp] theorem State.writeResult_periph (s : State) (r : OpResult) : (s.writeResult r).periph = s.periph := by cases r <;> rfl
@[simp] theorem State.writeResult_draws (s : State) (r : OpResult) : (s.writeResult r).draws = s.draws := by cases r <;> rfl
@[simp] theorem State.writeResult_inputs (s : State) (r : OpResult) : (s.writeResult r).inputs = s.inputs := by cases r <;> rfl
@[simp] theorem State.writeResult_reads (s : State) (r : OpResult) : (s.writeResult r).reads = s.reads := by cases r <;> rfl
@[simp] theorem State.writeResult_params (s : State) (r : OpResult) : (s.writeResult r).params = s.params := by cases r <;> rfl

@[simp] theorem State.complete_pads (s : State) (r : OpResult) : (s.complete r).pads = s.pads := by
  simp [State.complete]
@[simp] theorem State.complete_arg (s : State) (r : OpResult) : (s.complete r).arg = s.arg := by
  simp [State.complete]
@[simp] theorem State.complete_data (s : State) (r : OpResult) : (s.complete r).data = s.data := by
  simp [State.complete]
@[simp] theorem State.complete_result (s : State) (r : OpResult) : (s.complete r).result = (s.writeResult r).result := by
  simp [State.complete]
@[simp] theorem State.complete_ovr (s : State) (r : OpResult) : (s.complete r).ovr = s.ovr := by
  simp [State.complete]
@[simp] theorem State.complete_err (s : State) (r : OpResult) : (s.complete r).err = r.code := by
  simp [State.complete]
@[simp] theorem State.complete_tr (s : State) (r : OpResult) : (s.complete r).tr = (s.writeResult r).tr := by
  simp [State.complete]
@[simp] theorem State.complete_buf (s : State) (r : OpResult) : (s.complete r).buf = (s.writeResult r).buf := by
  simp [State.complete]
@[simp] theorem State.complete_snap (s : State) (r : OpResult) : (s.complete r).snap = s.snap := by
  simp [State.complete]
@[simp] theorem State.complete_seq (s : State) (r : OpResult) : (s.complete r).seq = none := by
  simp [State.complete]
@[simp] theorem State.complete_trace (s : State) (r : OpResult) : (s.complete r).trace = s.trace := by
  simp [State.complete]
@[simp] theorem State.complete_frame (s : State) (r : OpResult) : (s.complete r).frame = s.frame := by
  simp [State.complete]
@[simp] theorem State.complete_periph (s : State) (r : OpResult) : (s.complete r).periph = s.periph := by
  simp [State.complete]
@[simp] theorem State.complete_draws (s : State) (r : OpResult) : (s.complete r).draws = s.draws := by
  simp [State.complete]
@[simp] theorem State.complete_inputs (s : State) (r : OpResult) : (s.complete r).inputs = countDown s.inputs := by
  simp [State.complete]
@[simp] theorem State.complete_reads (s : State) (r : OpResult) : (s.complete r).reads = s.reads := by
  simp [State.complete]
@[simp] theorem State.complete_params (s : State) (r : OpResult) : (s.complete r).params = s.params := by
  simp [State.complete]

@[simp] theorem State.blockReset_pads (s : State) : (s.blockReset).pads = Pads.reset := rfl
@[simp] theorem State.blockReset_arg (s : State) : (s.blockReset).arg = 0 := rfl
@[simp] theorem State.blockReset_data (s : State) : (s.blockReset).data = 0 := rfl
@[simp] theorem State.blockReset_result (s : State) : (s.blockReset).result = 0 := rfl
@[simp] theorem State.blockReset_ovr (s : State) : (s.blockReset).ovr = false := rfl
@[simp] theorem State.blockReset_err (s : State) : (s.blockReset).err = 0 := rfl
@[simp] theorem State.blockReset_tr (s : State) : (s.blockReset).tr = TimeRecord.reset := rfl
@[simp] theorem State.blockReset_buf (s : State) : (s.blockReset).buf = Buffer.reset := rfl
@[simp] theorem State.blockReset_snap (s : State) : (s.blockReset).snap = Snapshot.cleared := rfl
@[simp] theorem State.blockReset_seq (s : State) : (s.blockReset).seq = none := rfl
@[simp] theorem State.blockReset_trace (s : State) : (s.blockReset).trace = [] := rfl
@[simp] theorem State.blockReset_frame (s : State) : (s.blockReset).frame = none := rfl
@[simp] theorem State.blockReset_periph (s : State) : (s.blockReset).periph = s.periph.cut s.frame s.draws := rfl
@[simp] theorem State.blockReset_draws (s : State) : (s.blockReset).draws = s.draws + cutDraws s.frame := rfl
@[simp] theorem State.blockReset_inputs (s : State) : (s.blockReset).inputs = s.inputs := rfl
@[simp] theorem State.blockReset_reads (s : State) : (s.blockReset).reads = s.reads := rfl
@[simp] theorem State.blockReset_params (s : State) : (s.blockReset).params = s.params := rfl

@[simp] theorem State.hostLoad_pads (s : State) (a : Offset) : (s.hostLoad a).pads = s.pads := rfl
@[simp] theorem State.hostLoad_arg (s : State) (a : Offset) : (s.hostLoad a).arg = s.arg := rfl
@[simp] theorem State.hostLoad_data (s : State) (a : Offset) : (s.hostLoad a).data = s.data := rfl
@[simp] theorem State.hostLoad_result (s : State) (a : Offset) : (s.hostLoad a).result = s.result := rfl
@[simp] theorem State.hostLoad_ovr (s : State) (a : Offset) : (s.hostLoad a).ovr = s.ovr := rfl
@[simp] theorem State.hostLoad_err (s : State) (a : Offset) : (s.hostLoad a).err = s.err := rfl
@[simp] theorem State.hostLoad_tr (s : State) (a : Offset) : (s.hostLoad a).tr = s.tr := rfl
@[simp] theorem State.hostLoad_buf (s : State) (a : Offset) : (s.hostLoad a).buf = s.buf := rfl
@[simp] theorem State.hostLoad_snap (s : State) (a : Offset) : (s.hostLoad a).snap = s.snap := rfl
@[simp] theorem State.hostLoad_seq (s : State) (a : Offset) : (s.hostLoad a).seq = s.seq := rfl
@[simp] theorem State.hostLoad_trace (s : State) (a : Offset) : (s.hostLoad a).trace = s.trace := rfl
@[simp] theorem State.hostLoad_frame (s : State) (a : Offset) : (s.hostLoad a).frame = s.frame := rfl
@[simp] theorem State.hostLoad_periph (s : State) (a : Offset) : (s.hostLoad a).periph = s.periph := rfl
@[simp] theorem State.hostLoad_draws (s : State) (a : Offset) : (s.hostLoad a).draws = s.draws := rfl
@[simp] theorem State.hostLoad_inputs (s : State) (a : Offset) : (s.hostLoad a).inputs = s.inputs := rfl
@[simp] theorem State.hostLoad_reads (s : State) (a : Offset) : (s.hostLoad a).reads = s.reads ++ [{ offset := a, value := s.hostReg a }] := rfl
@[simp] theorem State.hostLoad_params (s : State) (a : Offset) : (s.hostLoad a).params = s.params := rfl

/-! The pads. -/

@[simp] theorem Pads.setDir_ce_ceDir (p : Pads) (d : Dir) : (p.setDir d .ce).ceDir = d := rfl
@[simp] theorem Pads.setDir_ce_clkDir (p : Pads) (d : Dir) : (p.setDir d .ce).clkDir = p.clkDir := rfl
@[simp] theorem Pads.setDir_ce_dioDir (p : Pads) (d : Dir) : (p.setDir d .ce).dioDir = p.dioDir := rfl
@[simp] theorem Pads.setDir_ce_ceLvl (p : Pads) (d : Dir) : (p.setDir d .ce).ceLvl = p.ceLvl := rfl
@[simp] theorem Pads.setDir_ce_clkLvl (p : Pads) (d : Dir) : (p.setDir d .ce).clkLvl = p.clkLvl := rfl
@[simp] theorem Pads.setDir_ce_dioLvl (p : Pads) (d : Dir) : (p.setDir d .ce).dioLvl = p.dioLvl := rfl
@[simp] theorem Pads.setDir_clk_ceDir (p : Pads) (d : Dir) : (p.setDir d .clk).ceDir = p.ceDir := rfl
@[simp] theorem Pads.setDir_clk_clkDir (p : Pads) (d : Dir) : (p.setDir d .clk).clkDir = d := rfl
@[simp] theorem Pads.setDir_clk_dioDir (p : Pads) (d : Dir) : (p.setDir d .clk).dioDir = p.dioDir := rfl
@[simp] theorem Pads.setDir_clk_ceLvl (p : Pads) (d : Dir) : (p.setDir d .clk).ceLvl = p.ceLvl := rfl
@[simp] theorem Pads.setDir_clk_clkLvl (p : Pads) (d : Dir) : (p.setDir d .clk).clkLvl = p.clkLvl := rfl
@[simp] theorem Pads.setDir_clk_dioLvl (p : Pads) (d : Dir) : (p.setDir d .clk).dioLvl = p.dioLvl := rfl
@[simp] theorem Pads.setDir_dio_ceDir (p : Pads) (d : Dir) : (p.setDir d .dio).ceDir = p.ceDir := rfl
@[simp] theorem Pads.setDir_dio_clkDir (p : Pads) (d : Dir) : (p.setDir d .dio).clkDir = p.clkDir := rfl
@[simp] theorem Pads.setDir_dio_dioDir (p : Pads) (d : Dir) : (p.setDir d .dio).dioDir = d := rfl
@[simp] theorem Pads.setDir_dio_ceLvl (p : Pads) (d : Dir) : (p.setDir d .dio).ceLvl = p.ceLvl := rfl
@[simp] theorem Pads.setDir_dio_clkLvl (p : Pads) (d : Dir) : (p.setDir d .dio).clkLvl = p.clkLvl := rfl
@[simp] theorem Pads.setDir_dio_dioLvl (p : Pads) (d : Dir) : (p.setDir d .dio).dioLvl = p.dioLvl := rfl
@[simp] theorem Pads.setLevel_ce_ceDir (p : Pads) (v : Level) : (p.setLevel v .ce).ceDir = p.ceDir := rfl
@[simp] theorem Pads.setLevel_ce_clkDir (p : Pads) (v : Level) : (p.setLevel v .ce).clkDir = p.clkDir := rfl
@[simp] theorem Pads.setLevel_ce_dioDir (p : Pads) (v : Level) : (p.setLevel v .ce).dioDir = p.dioDir := rfl
@[simp] theorem Pads.setLevel_ce_ceLvl (p : Pads) (v : Level) : (p.setLevel v .ce).ceLvl = v := rfl
@[simp] theorem Pads.setLevel_ce_clkLvl (p : Pads) (v : Level) : (p.setLevel v .ce).clkLvl = p.clkLvl := rfl
@[simp] theorem Pads.setLevel_ce_dioLvl (p : Pads) (v : Level) : (p.setLevel v .ce).dioLvl = p.dioLvl := rfl
@[simp] theorem Pads.setLevel_clk_ceDir (p : Pads) (v : Level) : (p.setLevel v .clk).ceDir = p.ceDir := rfl
@[simp] theorem Pads.setLevel_clk_clkDir (p : Pads) (v : Level) : (p.setLevel v .clk).clkDir = p.clkDir := rfl
@[simp] theorem Pads.setLevel_clk_dioDir (p : Pads) (v : Level) : (p.setLevel v .clk).dioDir = p.dioDir := rfl
@[simp] theorem Pads.setLevel_clk_ceLvl (p : Pads) (v : Level) : (p.setLevel v .clk).ceLvl = p.ceLvl := rfl
@[simp] theorem Pads.setLevel_clk_clkLvl (p : Pads) (v : Level) : (p.setLevel v .clk).clkLvl = v := rfl
@[simp] theorem Pads.setLevel_clk_dioLvl (p : Pads) (v : Level) : (p.setLevel v .clk).dioLvl = p.dioLvl := rfl
@[simp] theorem Pads.setLevel_dio_ceDir (p : Pads) (v : Level) : (p.setLevel v .dio).ceDir = p.ceDir := rfl
@[simp] theorem Pads.setLevel_dio_clkDir (p : Pads) (v : Level) : (p.setLevel v .dio).clkDir = p.clkDir := rfl
@[simp] theorem Pads.setLevel_dio_dioDir (p : Pads) (v : Level) : (p.setLevel v .dio).dioDir = p.dioDir := rfl
@[simp] theorem Pads.setLevel_dio_ceLvl (p : Pads) (v : Level) : (p.setLevel v .dio).ceLvl = p.ceLvl := rfl
@[simp] theorem Pads.setLevel_dio_clkLvl (p : Pads) (v : Level) : (p.setLevel v .dio).clkLvl = p.clkLvl := rfl
@[simp] theorem Pads.setLevel_dio_dioLvl (p : Pads) (v : Level) : (p.setLevel v .dio).dioLvl = v := rfl

/-! Two states with equal fields are equal. -/

theorem State.eq_of_fields {s t : State} (h1 : s.pads = t.pads) (h2 : s.arg = t.arg) (h3 : s.data = t.data)
    (h4 : s.result = t.result) (h5 : s.ovr = t.ovr) (h6 : s.err = t.err) (h7 : s.tr = t.tr) (h8 : s.buf = t.buf)
    (h9 : s.snap = t.snap) (h10 : s.seq = t.seq) (h11 : s.trace = t.trace) (h12 : s.frame = t.frame)
    (h13 : s.periph = t.periph) (h14 : s.draws = t.draws) (h15 : s.inputs = t.inputs) (h16 : s.reads = t.reads)
    (h17 : s.params = t.params) : s = t := by
  cases s; cases t; simp_all

/-! Inputs. -/

theorem countDown_of_quiet {s : State} (h : s.quiet = true) : countDown s.inputs = s.inputs := by
  unfold State.quiet at h
  unfold countDown
  split at h <;> simp_all

theorem hostDue_of_quiet {s : State} (h : s.quiet = true) : s.hostDue = false := by
  unfold State.quiet at h
  unfold State.hostDue
  split at h <;> simp_all

/-- Whether a state is quiet depends on its inputs only. -/
theorem quiet_congr {s t : State} (h : t.inputs = s.inputs) : t.quiet = s.quiet := by
  simp only [State.quiet, h]

end Sys2Proof.Machine
end

