-- ==== Sys2Proof/Laws/Host.lean ====
section
/-! SUPPORT. Whose step it is, and what a host store does to the registers. -/

namespace Sys2Proof.Machine

theorem pending_none {s : State} (h : ∀ f, s.frame = some f → f.turn = false) : s.frame.filter (·.turn) = none := by
  cases hf : s.frame with
  | none => rfl
  | some f => simp [Option.filter, h f hf]

theorem turn_controller {s : State} {q : Sequencer} (h : ∀ f, s.frame = some f → f.turn = false)
    (hd : s.hostDue = false) (hq : s.seq = some q) : s.turn = .controller q.word := by
  simp [State.turn, pending_none h, hq, hd]

theorem step_host {s : State} (h : s.turn = .host) : step s = .next s.hostAct := by simp [step, h]

theorem byte_put_self (b : Buffer) (v : Byte) {k : Nat} (h : k ≤ 30) : (b.put k v).byte k = v := by
  have : k < 31 := by omega
  simp [Buffer.put, Buffer.byte, this]

theorem byte_put_ne (b : Buffer) (v : Byte) {i k : Nat} (h : i ≠ k) : (b.put i v).byte k = b.byte k := by
  simp only [Buffer.put, Buffer.byte]
  rw [Vector.getElem?_setIfInBounds_ne h]

section
variable (s : State) {k : Nat} (hk : k < 64)
include hk

theorem hostReg_with_arg (v : Byte) (h : k ≠ 1) :
    ({ s with arg := v } : State).hostReg (BitVec.ofNat 6 k) = s.hostReg (BitVec.ofNat 6 k) := by
  revert h
  interval_cases k <;> first | (intro; rfl) | simp

theorem hostReg_with_data (v : Byte) (h : k ≠ 2) :
    ({ s with data := v } : State).hostReg (BitVec.ofNat 6 k) = s.hostReg (BitVec.ofNat 6 k) := by
  revert h
  interval_cases k <;> first | (intro; rfl) | simp

theorem hostReg_with_buf (b : Buffer) :
    ({ s with buf := b } : State).hostReg (BitVec.ofNat 6 k) =
      if 0x10 ≤ k ∧ k ≤ 0x2E then b.byte (k - 0x10) else s.hostReg (BitVec.ofNat 6 k) := by
  interval_cases k <;> rfl

end

/-- A store to BUF (R32). -/
theorem storeReg_buffer (s : State) (v : Byte) {n : Nat} (h : 0x10 ≤ n) (h' : n ≤ 0x2E) :
    s.storeReg (BitVec.ofNat 6 n) v = { s with buf := s.buf.put (n - 0x10) v } := by
  interval_cases n <;> rfl

/-- A store changes only the read/write registers. -/
theorem storeReg_frame (s : State) (a : Offset) (v : Byte) :
    s.storeReg a v =
      { s with
        arg := (s.storeReg a v).arg, data := (s.storeReg a v).data, tr := (s.storeReg a v).tr
        buf := (s.storeReg a v).buf } := by
  unfold State.storeReg
  split <;> first | rfl | (split <;> rfl)

end Sys2Proof.Machine
end

