-- ==== Sys2Proof/Laws/Transport.lean ====
section
/-! SUPPORT. What each line sequence does to a state, said once, in a state no host act disturbs. -/

namespace Sys2Proof.Machine

theorem getLsbD_byteOf (b : Nat → Level) : ∀ i, i < 8 → (byteOf b).getLsbD i = b i := by
  intro i hi
  simp only [byteOf, BitVec.getLsbD_append, BitVec.getLsbD_ofBool]
  interval_cases i <;> simp

/-- Assembling the bits of a byte in ShiftIn's way gives the byte. -/
theorem assemble_bits (v : Byte) :
    (((((((((0 : Byte) ||| ((BitVec.ofBool (v.getLsbD 0)).setWidth 8 <<< 0)) |||
      ((BitVec.ofBool (v.getLsbD 1)).setWidth 8 <<< 1)) |||
      ((BitVec.ofBool (v.getLsbD 2)).setWidth 8 <<< 2)) |||
      ((BitVec.ofBool (v.getLsbD 3)).setWidth 8 <<< 3)) |||
      ((BitVec.ofBool (v.getLsbD 4)).setWidth 8 <<< 4)) |||
      ((BitVec.ofBool (v.getLsbD 5)).setWidth 8 <<< 5)) |||
      ((BitVec.ofBool (v.getLsbD 6)).setWidth 8 <<< 6)) |||
      ((BitVec.ofBool (v.getLsbD 7)).setWidth 8 <<< 7)) = v := by
  revert v; decide +kernel

/-- `s` after the events `es`, which sampled `bits`: the pads, the frame, the peripheral and the count of draws are given;
everything else but the trace and the sequencer's place is as in `s`. -/
def State.went (s : State) (es : List LineEvent) (bits : List Level) (p : Pads) (fr : Option Frame)
    (pe : Peripheral) (dr : Nat) : State :=
  { s with
    pads := p, trace := s.trace ++ es, frame := fr, periph := pe, draws := dr
    seq := s.seq.map fun q => { q with next := q.next + es.length, samples := q.samples ++ bits } }

theorem State.went_went (s : State) (es es' : List LineEvent) (bits bits' : List Level) (p p' : Pads)
    (fr fr' : Option Frame) (pe pe' : Peripheral) (dr dr' : Nat) :
    (s.went es bits p fr pe dr).went es' bits' p' fr' pe' dr' = s.went (es ++ es') (bits ++ bits') p' fr' pe' dr' := by
  simp [State.went, Function.comp_def, Nat.add_assoc]

section
variable (s : State) (es : List LineEvent) (bits : List Level) (p : Pads) (fr : Option Frame) (pe : Peripheral)
  (dr : Nat)
@[simp] theorem State.went_pads : (s.went es bits p fr pe dr).pads = p := rfl
@[simp] theorem State.went_frame : (s.went es bits p fr pe dr).frame = fr := rfl
@[simp] theorem State.went_periph : (s.went es bits p fr pe dr).periph = pe := rfl
@[simp] theorem State.went_draws : (s.went es bits p fr pe dr).draws = dr := rfl
@[simp] theorem State.went_inputs : (s.went es bits p fr pe dr).inputs = s.inputs := rfl
@[simp] theorem State.went_quiet : (s.went es bits p fr pe dr).quiet = s.quiet := rfl
end

/-- No pending turn: the peripheral has nothing to act on. -/
theorem settle_of_no_turn {s : State} (h : ∀ f, s.frame = some f → f.turn = false) : s.settle = s := by
  unfold State.settle
  split
  · next f hf => simp [h f hf]
  · rfl

variable {s : State}

theorem advance_setDir (h : s.quiet = true) (l : Line) (d : Dir) (k : Prog OpResult) :
    (Prog.setDir l d k).advance s = k.advance (s.setDir l d) := by
  simp [Prog.advance, hostDue_of_quiet h]

theorem advance_setLevel (h : s.quiet = true) (l : Line) (v : Level) (k : Prog OpResult) :
    (Prog.setLevel l v k).advance s = k.advance (s.setLevel l v) := by
  simp [Prog.advance, hostDue_of_quiet h]

theorem advance_openFrame (h : s.quiet = true) (c : Byte) (kind : FrameKind) (k : Prog OpResult) :
    (Prog.openFrame c kind k).advance s = k.advance (s.openFrame c kind) := by
  simp [Prog.advance, hostDue_of_quiet h]

theorem advance_delay (h : s.quiet = true) (n : Nat) (k : Prog OpResult) :
    (Prog.delay n k).advance s = k.advance (s.wait n) := by
  simp [Prog.advance, hostDue_of_quiet h]

theorem advance_sample (h : s.quiet = true) (k : Level → Prog OpResult) :
    (Prog.sample k).advance s = (k s.settle.dioLevel).advance (s.settle.sampled s.settle.dioLevel) := by
  simp [Prog.advance, hostDue_of_quiet h]

/-- A rule that ends where DIO has yet to go low ends as if that event were its last. -/
theorem advance_ret_lowers {r : OpResult} (h : r.code = errOk ∧ s.lowersDio = true) :
    (Prog.ret r).advance s = (Prog.setLevel .dio false (.ret r)).advance s := by
  have hl : (s.setLevel .dio false).lowersDio = false := by simp [State.lowersDio]
  simp only [Prog.advance, State.finish, if_pos h, hl, Bool.false_eq_true, and_false, if_false]

/-- Elsewhere the end of the rule is the completion. -/
theorem advance_ret_stays {r : OpResult} (h : ¬(r.code = errOk ∧ s.lowersDio = true)) :
    (Prog.ret r).advance s = if s.hostDue then s else s.complete r := by
  simp only [Prog.advance, State.finish, if_neg h]

theorem advance_ret (h : s.quiet = true) (r : OpResult) : (Prog.ret r).advance s = s.finish r := by
  simp [Prog.advance, hostDue_of_quiet h]

theorem setDir_went (h : s.quiet = true) (ht : ∀ f, s.frame = some f → f.turn = false) (l : Line) (d : Dir) :
    s.setDir l d = s.went [.setDir l d] [] (s.pads.setDir d l) s.frame s.periph s.draws := by
  apply State.eq_of_fields <;> simp [settle_of_no_turn ht, countDown_of_quiet h, State.went]

theorem setLevel_went (h : s.quiet = true) (ht : ∀ f, s.frame = some f → f.turn = false) (l : Line) (v : Level) :
    s.setLevel l v =
      s.went [.setLevel l v] [] (s.pads.setLevel v l) (s.frame.bind fun f => f.see s.pads v l) s.periph s.draws := by
  apply State.eq_of_fields <;> simp [settle_of_no_turn ht, countDown_of_quiet h, State.went]

/-- A level change while it is the peripheral's turn: the peripheral acts first. -/
theorem setLevel_turn (h : s.quiet = true) {f : Frame} (hf : s.frame = some f) (ht : f.turn = true) (l : Line)
    (v : Level) :
    s.setLevel l v =
      s.went [.setLevel l v] [] (s.pads.setLevel v l)
        ((s.periph.act f.cmd f s.draws).frame.see s.pads v l)
        (s.periph.act f.cmd f s.draws).periph (s.periph.act f.cmd f s.draws).draws := by
  apply State.eq_of_fields <;>
    simp [State.settle, hf, ht, State.takeCommand, countDown_of_quiet h, State.went]

theorem openFrame_went (h : s.quiet = true) (ht : s.frame = none) (c : Byte) (kind : FrameKind) :
    s.openFrame c kind =
      s.went [.setLevel .ce true] [] (s.pads.setLevel true .ce)
        (some { cmd := c, kind := kind, rises := 0, sampled := 0, resp := [], turn := false }) s.periph s.draws := by
  have : s.settle = s := settle_of_no_turn (by simp [ht])
  apply State.eq_of_fields <;> simp [this, countDown_of_quiet h, State.went]

theorem wait_went (h : s.quiet = true) (ht : ∀ f, s.frame = some f → f.turn = false) (n : Nat) :
    s.wait n = s.went [.delay n] [] s.pads s.frame s.periph s.draws := by
  apply State.eq_of_fields <;> simp [settle_of_no_turn ht, countDown_of_quiet h, State.went]

theorem sampled_went (h : s.quiet = true) (b : Level) :
    s.sampled b =
      s.went [.sample b] [b] s.pads (s.frame.map fun f => { f with sampled := f.sampled + 1 }) s.periph
        (if s.laidOut.isSome then s.draws else s.draws + 1) := by
  apply State.eq_of_fields <;> simp [countDown_of_quiet h, State.went]

/-- LineInit (R140). -/
theorem lineInit_advance (h : s.quiet = true) (hf : s.frame = none) (k : Prog OpResult) :
    (lineInit k).advance s =
      k.advance (s.went lineInitEvents []
        { ceDir := .output, clkDir := .output, dioDir := .output, ceLvl := false, clkLvl := false, dioLvl := false }
        none s.periph s.draws) := by
  simp only [lineInit]
  rw [advance_setDir h, setDir_went h (by simp [hf]), advance_setLevel (by simpa using h),
    setLevel_went (by simpa using h) (by simp [hf]), advance_setDir (by simpa using h),
    setDir_went (by simpa using h) (by simp [hf]), advance_setLevel (by simpa using h),
    setLevel_went (by simpa using h) (by simp [hf]), advance_setDir (by simpa using h),
    setDir_went (by simpa using h) (by simp [hf]), advance_setLevel (by simpa using h),
    setLevel_went (by simpa using h) (by simp [hf])]
  simp [State.went_went, hf, lineInitEvents]
  rfl

/-- FrameOpen (R141). -/
theorem frameOpen_advance (h : s.quiet = true) (hf : s.frame = none) (c : Byte) (kind : FrameKind)
    (k : Prog OpResult) :
    (frameOpen c kind k).advance s =
      k.advance (s.went frameOpenEvents [] (s.pads.setLevel true .ce)
        (some { cmd := c, kind := kind, rises := 0, sampled := 0, resp := [], turn := false }) s.periph s.draws) := by
  simp only [frameOpen]
  rw [advance_openFrame h, openFrame_went h hf, advance_delay (by simpa using h), wait_went (by simpa using h) (by simp)]
  simp [State.went_went, frameOpenEvents, Config.tCeSetup]

section
variable {c : Byte} {kind : FrameKind} {r sm : Nat} {resp : List (Option Byte)}

/-- One bit out (R130) inside a frame, before the last bit the block drives. -/
theorem bitOut_advance (h : s.quiet = true) (hf : s.frame = some ⟨c, kind, r, sm, resp, false⟩)
    (hc : s.pads.clkLvl = false) (hr : r + 1 ≠ 8 * kind.bytesOut) (x : Level) (k : Prog OpResult) :
    (Prog.setLevel .dio x (.setLevel .clk true (.setLevel .clk false k))).advance s =
      k.advance (s.went [.setLevel .dio x, .setLevel .clk true, .setLevel .clk false] []
        { s.pads with dioLvl := x, clkLvl := false } (some ⟨c, kind, r + 1, sm, resp, false⟩) s.periph s.draws) := by
  have hr' : (r + 1 == 8 * kind.bytesOut) = false := by simpa using hr
  rw [advance_setLevel h, setLevel_went h (by simp [hf]), advance_setLevel (by simpa using h),
    setLevel_went (by simpa using h) (by simp [hf, Frame.see]), advance_setLevel (by simpa using h),
    setLevel_went (by simpa using h) (by simp [hf, Frame.see, hc, hr'])]
  simp [State.went_went, hf, Frame.see, hc, hr', Pads.setLevel]

/-- The last bit the block drives in a frame: the peripheral acts before the clock falls (R82, R85). -/
theorem bitOut_last_advance (h : s.quiet = true) (hf : s.frame = some ⟨c, kind, r, sm, resp, false⟩)
    (hc : s.pads.clkLvl = false) (hr : r + 1 = 8 * kind.bytesOut) (x : Level) (k : Prog OpResult) :
    (Prog.setLevel .dio x (.setLevel .clk true (.setLevel .clk false k))).advance s =
      k.advance (s.went [.setLevel .dio x, .setLevel .clk true, .setLevel .clk false] []
        { s.pads with dioLvl := x, clkLvl := false }
        (some (s.periph.act c ⟨c, kind, r + 1, sm, resp, true⟩ s.draws).frame)
        (s.periph.act c ⟨c, kind, r + 1, sm, resp, true⟩ s.draws).periph
        (s.periph.act c ⟨c, kind, r + 1, sm, resp, true⟩ s.draws).draws) := by
  have hr' : (r + 1 == 8 * kind.bytesOut) = true := by simpa using hr
  rw [advance_setLevel h, setLevel_went h (by simp [hf]), advance_setLevel (by simpa using h),
    setLevel_went (by simpa using h) (by simp [hf, Frame.see]), advance_setLevel (by simpa using h),
    setLevel_turn (f := ⟨c, kind, r + 1, sm, resp, true⟩) (by simpa using h)
      (by simp [hf, Frame.see, hc, hr']) rfl]
  simp [State.went_went, Frame.see, Pads.setLevel]

/-- ShiftOut (R130) inside a frame, more bytes to follow. -/
theorem shiftOut_advance (h : s.quiet = true) (m : Nat) (hf : s.frame = some ⟨c, kind, 8 * m, sm, resp, false⟩)
    (hc : s.pads.clkLvl = false) (hm : m + 1 < kind.bytesOut ∨ kind.bytesOut ≤ m) (b : Byte) (k : Prog OpResult) :
    (shiftOut b k).advance s =
      k.advance (s.went (shiftOutEvents b) [] { s.pads with dioLvl := b.getLsbD 7, clkLvl := false }
        (some ⟨c, kind, 8 * m + 8, sm, resp, false⟩) s.periph s.draws) := by
  simp only [shiftOut, shiftOutBits]
  rw [bitOut_advance h hf hc (by omega), bitOut_advance (by simpa using h) (by rfl) rfl (by omega),
    bitOut_advance (by simpa using h) (by rfl) rfl (by omega), bitOut_advance (by simpa using h) (by rfl) rfl (by omega),
    bitOut_advance (by simpa using h) (by rfl) rfl (by omega), bitOut_advance (by simpa using h) (by rfl) rfl (by omega),
    bitOut_advance (by simpa using h) (by rfl) rfl (by omega), bitOut_advance (by simpa using h) (by rfl) rfl (by omega)]
  simp [State.went_went, shiftOutEvents, List.range_succ]

/-- ShiftOut (R130) of the last byte the block drives in a frame. -/
theorem shiftOut_last_advance (h : s.quiet = true) (m : Nat)
    (hf : s.frame = some ⟨c, kind, 8 * m, sm, resp, false⟩)
    (hc : s.pads.clkLvl = false) (hm : m + 1 = kind.bytesOut) (b : Byte) (k : Prog OpResult) :
    (shiftOut b k).advance s =
      k.advance (s.went (shiftOutEvents b) [] { s.pads with dioLvl := b.getLsbD 7, clkLvl := false }
        (some (s.periph.act c ⟨c, kind, 8 * m + 8, sm, resp, true⟩ s.draws).frame)
        (s.periph.act c ⟨c, kind, 8 * m + 8, sm, resp, true⟩ s.draws).periph
        (s.periph.act c ⟨c, kind, 8 * m + 8, sm, resp, true⟩ s.draws).draws) := by
  simp only [shiftOut, shiftOutBits]
  rw [bitOut_advance h hf hc (by omega), bitOut_advance (by simpa using h) (by rfl) rfl (by omega),
    bitOut_advance (by simpa using h) (by rfl) rfl (by omega), bitOut_advance (by simpa using h) (by rfl) rfl (by omega),
    bitOut_advance (by simpa using h) (by rfl) rfl (by omega), bitOut_advance (by simpa using h) (by rfl) rfl (by omega),
    bitOut_advance (by simpa using h) (by rfl) rfl (by omega),
    bitOut_last_advance (by simpa using h) (by rfl) rfl (by omega)]
  simp [State.went_went, shiftOutEvents, List.range_succ]

end

/-- ShiftOut outside any frame (R132). -/
theorem shiftOut_idle_advance (h : s.quiet = true) (hf : s.frame = none) (b : Byte) (k : Prog OpResult) :
    (shiftOut b k).advance s =
      k.advance (s.went (shiftOutEvents b) [] { s.pads with dioLvl := b.getLsbD 7, clkLvl := false } none
        s.periph s.draws) := by
  have one : ∀ {t : State}, t.quiet = true → t.frame = none → ∀ (x : Level) (k : Prog OpResult),
      (Prog.setLevel .dio x (.setLevel .clk true (.setLevel .clk false k))).advance t =
        k.advance (t.went [.setLevel .dio x, .setLevel .clk true, .setLevel .clk false] []
          { t.pads with dioLvl := x, clkLvl := false } none t.periph t.draws) := by
    intro t h hf x k
    rw [advance_setLevel h, setLevel_went h (by simp [hf]), advance_setLevel (by simpa using h),
      setLevel_went (by simpa using h) (by simp [hf]), advance_setLevel (by simpa using h),
      setLevel_went (by simpa using h) (by simp [hf])]
    simp [State.went_went, hf, Pads.setLevel]
  simp only [shiftOut, shiftOutBits]
  rw [one h hf, one (by simpa using h) rfl, one (by simpa using h) rfl, one (by simpa using h) rfl,
    one (by simpa using h) rfl, one (by simpa using h) rfl, one (by simpa using h) rfl, one (by simpa using h) rfl]
  simp [State.went_went, shiftOutEvents, List.range_succ]

/-- The byte a ShiftIn assembles: the one laid out, or the draws (R80, R85). -/
def answerByte (a : Option Byte) (d : Nat) : Byte := a.getD (oracleByte d)

/-- The count of draws after `n` samples of it. -/
def answerDraws (a : Option Byte) (d n : Nat) : Nat := if a.isSome then d else d + n

/-- The 8 bits of a byte in the order of its samples. -/
def byteBits (v : Byte) : List Level :=
  [v.getLsbD 0, v.getLsbD 1, v.getLsbD 2, v.getLsbD 3, v.getLsbD 4, v.getLsbD 5, v.getLsbD 6, v.getLsbD 7]

/-- The three events of one bit of ShiftIn (R131). -/
def bitInEvents (ph : SamplePhase) (x : Level) : List LineEvent :=
  match ph with
  | .afterFall => [.setLevel .clk true, .setLevel .clk false, .sample x]
  | .beforeRise => [.sample x, .setLevel .clk true, .setLevel .clk false]

theorem shiftInEvents_bits (ph : SamplePhase) (v : Byte) :
    shiftInEvents ph v =
      bitInEvents ph (v.getLsbD 0) ++ bitInEvents ph (v.getLsbD 1) ++ bitInEvents ph (v.getLsbD 2) ++
      bitInEvents ph (v.getLsbD 3) ++ bitInEvents ph (v.getLsbD 4) ++ bitInEvents ph (v.getLsbD 5) ++
      bitInEvents ph (v.getLsbD 6) ++ bitInEvents ph (v.getLsbD 7) := by
  cases ph <;> simp [shiftInEvents, bitInEvents, List.range_succ]

section
variable {c : Byte} {kind : FrameKind} {r : Nat} {resp : List (Option Byte)} {a : Option Byte} {d j : Nat}

/-- One bit in (R131) inside a frame the peripheral has acted on. -/
theorem bitIn_advance (h : s.quiet = true) (ph : SamplePhase) {i : Nat} (hi : i < 8) {P : Pads} {pe : Peripheral}
    (hf : s.frame = some ⟨c, kind, r, 8 * j + i, resp, false⟩) (hp : s.pads = P) (hc : P.clkLvl = false)
    (hr : 8 * kind.bytesOut ≤ r) (ha : resp.getD j none = a) (hd : s.draws = answerDraws a d i)
    (hpe : s.periph = pe) (k : Level → Prog OpResult) :
    (clockedSample ph k).advance s =
      (k ((answerByte a d).getLsbD i)).advance
        (s.went (bitInEvents ph ((answerByte a d).getLsbD i)) [(answerByte a d).getLsbD i] P
          (some ⟨c, kind, r + 1, 8 * j + (i + 1), resp, false⟩) pe (answerDraws a d (i + 1))) := by
  have hr' : (r + 1 == 8 * kind.bytesOut) = false := by simp; omega
  have hj : (8 * j + i) / 8 = j := by omega
  have hi' : (8 * j + i) % 8 = i := by omega
  have hP : (P.setLevel true .clk).setLevel false .clk = P := by cases P; simp_all [Pads.setLevel]
  have key : ∀ {t : State} {r' : Nat}, t.frame = some ⟨c, kind, r', 8 * j + i, resp, false⟩ → t.draws = s.draws →
      t.dioLevel = (answerByte a d).getLsbD i ∧
        (if t.laidOut.isSome then t.draws else t.draws + 1) = answerDraws a d (i + 1) := by
    intro t r' hft htd
    cases a with
    | none =>
      simp [State.dioLevel, State.laidOut, Frame.laidOut, hft, hj, hi', ha, htd, hd, answerByte, answerDraws,
        oracleByte, getLsbD_byteOf _ i hi, Nat.add_assoc, -List.getD_eq_getElem?_getD]
    | some b =>
      simp [State.dioLevel, State.laidOut, Frame.laidOut, hft, hj, hi', ha, htd, hd, answerByte, answerDraws,
        -List.getD_eq_getElem?_getD]
  cases ph with
  | afterFall =>
    simp only [clockedSample]
    have e : (s.setLevel .clk true).setLevel .clk false =
        s.went [.setLevel .clk true, .setLevel .clk false] [] P (some ⟨c, kind, r + 1, 8 * j + i, resp, false⟩)
          pe s.draws := by
      rw [setLevel_went h (by simp [hf]),
        setLevel_went (by simpa using h) (by simp [hf, hp, Frame.see, hc, hr'])]
      simp [State.went_went, hf, hp, Frame.see, hc, hr', hP, hpe]
    rw [advance_setLevel h, advance_setLevel (by rw [setLevel_went h (by simp [hf])]; simpa using h), e,
      advance_sample (by simpa using h), settle_of_no_turn (by simp)]
    obtain ⟨k1, k2⟩ := key (t := s.went [.setLevel .clk true, .setLevel .clk false] [] P
      (some ⟨c, kind, r + 1, 8 * j + i, resp, false⟩) pe s.draws) rfl rfl
    rw [k1, sampled_went (by simpa using h), k2]
    simp [State.went_went, bitInEvents, Nat.add_assoc]
  | beforeRise =>
    simp only [clockedSample]
    obtain ⟨k1, k2⟩ := key hf rfl
    rw [advance_sample h, settle_of_no_turn (by simp [hf]), k1, sampled_went h, k2,
      advance_setLevel (by simpa using h), setLevel_went (by simpa using h) (by simp [hf]),
      advance_setLevel (by simpa using h),
      setLevel_went (by simpa using h) (by simp [hf, hp, Frame.see, hc, hr'])]
    simp [State.went_went, hf, hp, Frame.see, hc, hr', hP, hpe, bitInEvents, Nat.add_assoc]

/-- ShiftIn (R131) inside a frame the peripheral has acted on. -/
theorem shiftIn_advance (h : s.quiet = true) (ph : SamplePhase) {P : Pads} {pe : Peripheral}
    (hf : s.frame = some ⟨c, kind, r, 8 * j, resp, false⟩) (hp : s.pads = P) (hc : P.clkLvl = false)
    (hr : 8 * kind.bytesOut ≤ r) (ha : resp.getD j none = a) (hd : s.draws = d) (hpe : s.periph = pe)
    (k : Byte → Prog OpResult) :
    (shiftIn ph k).advance s =
      (k (answerByte a d)).advance
        (s.went (shiftInEvents ph (answerByte a d)) (byteBits (answerByte a d)) P
          (some ⟨c, kind, r + 8, 8 * (j + 1), resp, false⟩) pe (answerDraws a d 8)) := by
  have hd : s.draws = answerDraws a d 0 := by simp [answerDraws, hd]
  simp only [shiftIn, shiftInBits]
  rw [bitIn_advance h ph (i := 0) (by omega) hf hp hc hr ha hd hpe,
    bitIn_advance (by simpa using h) ph (i := 1) (by omega) rfl rfl hc (by omega) ha rfl rfl,
    bitIn_advance (by simpa using h) ph (i := 2) (by omega) rfl rfl hc (by omega) ha rfl rfl,
    bitIn_advance (by simpa using h) ph (i := 3) (by omega) rfl rfl hc (by omega) ha rfl rfl,
    bitIn_advance (by simpa using h) ph (i := 4) (by omega) rfl rfl hc (by omega) ha rfl rfl,
    bitIn_advance (by simpa using h) ph (i := 5) (by omega) rfl rfl hc (by omega) ha rfl rfl,
    bitIn_advance (by simpa using h) ph (i := 6) (by omega) rfl rfl hc (by omega) ha rfl rfl,
    bitIn_advance (by simpa using h) ph (i := 7) (by omega) rfl rfl hc (by omega) ha rfl rfl]
  simp only [State.went_went, Nat.zero_add, Nat.reduceAdd, assemble_bits, shiftInEvents_bits]
  rfl

end

end Sys2Proof.Machine
end

