-- ==== Sys2Proof/Laws/Frames.lean ====
section
/-! SUPPORT. What each frame does to a state that no host act disturbs: its events, what it returns, the peripheral after
it, and the pads it leaves. -/

namespace Sys2Proof.Machine

/-- The response the peripheral lays out for a read frame; empty where every sample is a draw. -/
def Peripheral.lays (pe : Peripheral) (c : Byte) (kind : FrameKind) : List (Option Byte) :=
  match pe, kind with
  | .reference rp, .rd => if cmdReads c = true then (List.range 1).map (rp.respByte c) else []
  | .reference rp, .brd n => if cmdReads c = true then (List.range n).map (rp.respByte c) else []
  | _, _ => []

/-- The peripheral after it has acted on a command byte in a frame of the given kind. -/
def Peripheral.taken (pe : Peripheral) (c : Byte) (kind : FrameKind) (d : Nat) : Peripheral :=
  match pe, kind with
  | .reference rp, .wr v =>
    if cmdReads c = true then (rp.stray c ⟨c, kind, 0, 0, [], true⟩ 1 d).periph else .reference (rp.write c v)
  | .reference rp, .bwr vs =>
    if cmdReads c = true then (rp.stray c ⟨c, kind, 0, 0, [], true⟩ vs.length d).periph
    else .reference (rp.burstWrite c vs)
  | .reference rp, .rd => if cmdReads c = true then .reference rp else .reference (rp.mismatch c 1 d)
  | .reference rp, .brd n => if cmdReads c = true then .reference rp else .reference (rp.mismatch c n d)
  | .device, _ => .device

/-- The count of draws after that. -/
def Peripheral.takenDraws (pe : Peripheral) (c : Byte) (kind : FrameKind) (d : Nat) : Nat :=
  match pe, kind with
  | .reference rp, .wr _ => if cmdReads c = true then (rp.stray c ⟨c, kind, 0, 0, [], true⟩ 1 d).draws else d
  | .reference rp, .bwr vs =>
    if cmdReads c = true then (rp.stray c ⟨c, kind, 0, 0, [], true⟩ vs.length d).draws else d
  | .reference _, .rd => if cmdReads c = true then d else d + 1
  | .reference _, .brd n => if cmdReads c = true then d else d + n
  | _, _ => d

theorem act_eq (pe : Peripheral) (c : Byte) (kind : FrameKind) (r sm d : Nat) :
    pe.act c ⟨c, kind, r, sm, [], true⟩ d =
      ⟨⟨c, kind, r, sm, pe.lays c kind, false⟩, pe.taken c kind d, pe.takenDraws c kind d⟩ := by
  cases pe with
  | device => cases kind <;> rfl
  | reference rp =>
    cases kind <;>
      simp only [Peripheral.act, RefPeripheral.act, RefPeripheral.stray, Peripheral.lays, Peripheral.taken,
        Peripheral.takenDraws] <;>
      split <;> first | rfl | (cases rp.strayRead <;> rfl)

/-- The byte a single-byte read frame returns. -/
def Peripheral.reads (pe : Peripheral) (c : Byte) (d : Nat) : Byte :=
  answerByte ((pe.lays c .rd).getD 0 none) (pe.takenDraws c .rd d)

/-- The count of draws after a single-byte read frame. -/
def Peripheral.readDraws (pe : Peripheral) (c : Byte) (d : Nat) : Nat :=
  answerDraws ((pe.lays c .rd).getD 0 none) (pe.takenDraws c .rd d) 8

variable {s : State} {pe : Peripheral} {d : Nat}

/-- RdXfer (R142). -/
theorem rdXfer_advance (h : s.quiet = true) (hf : s.frame = none) (hpe : s.periph = pe) (hd : s.draws = d)
    (ph : SamplePhase) (c : Byte) (k : Byte → Prog OpResult) :
    (rdXfer ph c k).advance s =
      (k (pe.reads c d)).advance
        (s.went (rdXferEvents ph c (pe.reads c d)) (byteBits (pe.reads c d)) (padsAfterRead c) none
          (pe.taken c .rd d) (pe.readDraws c d)) := by
  subst hpe hd
  simp only [rdXfer]
  rw [lineInit_advance h hf, frameOpen_advance (by simpa using h) (by rfl),
    shiftOut_last_advance (by simpa using h) 0 (by rfl) rfl (by rfl), act_eq,
    advance_setDir (by simpa using h), setDir_went (by simpa using h) (by simp),
    shiftIn_advance (by simpa using h) ph (j := 0) (by rfl) (by rfl) rfl (by simp [FrameKind.bytesOut]) rfl rfl rfl,
    advance_setLevel (by simpa using h), setLevel_went (by simpa using h) (by simp)]
  simp only [State.went_went]
  rfl

/-- WrXfer (R143). -/
theorem wrXfer_advance (h : s.quiet = true) (hf : s.frame = none) (hpe : s.periph = pe) (hd : s.draws = d)
    (c v : Byte) (k : Prog OpResult) :
    (wrXfer c v k).advance s =
      k.advance (s.went (wrXferEvents c v) [] (padsAfterWrite v) none (pe.taken c (.wr v) d)
        (pe.takenDraws c (.wr v) d)) := by
  subst hpe hd
  simp only [wrXfer]
  rw [lineInit_advance h hf, frameOpen_advance (by simpa using h) (by rfl),
    shiftOut_advance (by simpa using h) 0 (by rfl) rfl (by simp [FrameKind.bytesOut]),
    shiftOut_last_advance (by simpa using h) 1 (by rfl) rfl (by rfl), act_eq,
    advance_setLevel (by simpa using h), setLevel_went (by simpa using h) (by simp)]
  simp only [State.went_went]
  rfl

/-- The bytes a burst read returns from response byte j on. -/
def burstAnswers (resp : List (Option Byte)) (j : Nat) : Nat → Nat → List Byte
  | 0, _ => []
  | n + 1, d => answerByte (resp.getD j none) d :: burstAnswers resp (j + 1) n (answerDraws (resp.getD j none) d 8)

/-- The count of draws after them. -/
def burstDraws (resp : List (Option Byte)) (j : Nat) : Nat → Nat → Nat
  | 0, d => d
  | n + 1, d => burstDraws resp (j + 1) n (answerDraws (resp.getD j none) d 8)

theorem length_burstAnswers (resp : List (Option Byte)) (n : Nat) :
    ∀ j d, (burstAnswers resp j n d).length = n := by
  induction n with
  | zero => intros; rfl
  | succ n ih => intro j d; simp [burstAnswers, ih]

/-- Consecutive ShiftIn inside a frame the peripheral has acted on (R151). -/
theorem shiftInBytes_advance (ph : SamplePhase) {c : Byte} {kind : FrameKind} {resp : List (Option Byte)} {P : Pads}
    (hc : P.clkLvl = false) (n : Nat) :
    ∀ {s : State} {r j d : Nat}, s.quiet = true → s.frame = some ⟨c, kind, r, 8 * j, resp, false⟩ → s.pads = P →
      8 * kind.bytesOut ≤ r → s.draws = d → s.periph = pe → ∀ k : List Byte → Prog OpResult,
      (shiftInBytes ph n k).advance s =
        (k (burstAnswers resp j n d)).advance
          (s.went ((burstAnswers resp j n d).flatMap (shiftInEvents ph))
            ((burstAnswers resp j n d).flatMap byteBits) P
            (some ⟨c, kind, r + 8 * n, 8 * (j + n), resp, false⟩) pe (burstDraws resp j n d)) := by
  induction n with
  | zero =>
    intro s r j d h hf hp hr hd hpe k
    simp only [shiftInBytes, burstAnswers, burstDraws, List.flatMap_nil]
    congr 1
    apply State.eq_of_fields <;> simp [State.went, hf, hp, hd, hpe]
  | succ n ih =>
    intro s r j d h hf hp hr hd hpe k
    simp only [shiftInBytes]
    rw [shiftIn_advance h ph hf hp hc hr rfl hd hpe,
      ih (by simpa using h) (by rfl) (by rfl) (by omega) (by rfl) (by rfl)]
    simp only [State.went_went, State.went_draws, burstAnswers, burstDraws, List.flatMap_cons]
    have e1 : r + 8 + 8 * n = r + 8 * (n + 1) := by omega
    have e2 : 8 * (j + 1 + n) = 8 * (j + (n + 1)) := by omega
    rw [e1, e2]

/-- Consecutive ShiftOut inside a frame, the last byte being the last the block drives (R152). -/
theorem shiftOutBytes_advance {c : Byte} {kind : FrameKind} {cd kd dd : Dir} {cl : Level} (ds : List Byte) :
    ∀ {s : State} {m : Nat} {dl : Level}, s.quiet = true → s.frame = some ⟨c, kind, 8 * m, 0, [], false⟩ →
      s.pads = ⟨cd, kd, dd, cl, false, dl⟩ → ds ≠ [] → m + ds.length = kind.bytesOut → s.draws = d → s.periph = pe →
      ∀ k : Prog OpResult,
      (shiftOutBytes ds k).advance s =
        k.advance (s.went (ds.flatMap shiftOutEvents) []
          ⟨cd, kd, dd, cl, false, (ds.getLastD 0).getLsbD 7⟩
          (some ⟨c, kind, 8 * kind.bytesOut, 0, pe.lays c kind, false⟩) (pe.taken c kind d)
          (pe.takenDraws c kind d)) := by
  induction ds with
  | nil => intro s m dl _ _ _ hne; exact absurd rfl hne
  | cons b bs ih =>
    intro s m dl h hf hp _ hm hd hpe k
    subst hd hpe
    simp only [shiftOutBytes]
    cases bs with
    | nil =>
      have hm' : m + 1 = kind.bytesOut := by simpa using hm
      rw [shiftOut_last_advance h m hf (by rw [hp]) hm', act_eq]
      simp [shiftOutBytes, hp, ← hm', Nat.mul_add]
    | cons b' bs =>
      have hm' : m + 1 < kind.bytesOut := by simp at hm; omega
      rw [shiftOut_advance h m hf (by rw [hp]) (Or.inl hm'),
        ih (m := m + 1) (dl := b.getLsbD 7) (by simpa using h) (by rfl) (by simp [hp]) (by simp)
          (by simp at hm ⊢; omega) (by rfl) (by rfl)]
      simp [State.went_went]

/-- BurstRdXfer (R151). -/
theorem burstRdXfer_advance (h : s.quiet = true) (hf : s.frame = none) (hpe : s.periph = pe) (hd : s.draws = d)
    (ph : SamplePhase) (c : Byte) (n : Nat) (k : List Byte → Prog OpResult) :
    (burstRdXfer ph c n k).advance s =
      (k (burstAnswers (pe.lays c (.brd n)) 0 n (pe.takenDraws c (.brd n) d))).advance
        (s.went (burstRdEvents ph c (burstAnswers (pe.lays c (.brd n)) 0 n (pe.takenDraws c (.brd n) d)))
          ((burstAnswers (pe.lays c (.brd n)) 0 n (pe.takenDraws c (.brd n) d)).flatMap byteBits)
          (padsAfterRead c) none (pe.taken c (.brd n) d)
          (burstDraws (pe.lays c (.brd n)) 0 n (pe.takenDraws c (.brd n) d))) := by
  subst hpe hd
  simp only [burstRdXfer]
  rw [lineInit_advance h hf, frameOpen_advance (by simpa using h) (by rfl),
    shiftOut_last_advance (by simpa using h) 0 (by rfl) rfl (by rfl), act_eq,
    advance_setDir (by simpa using h), setDir_went (by simpa using h) (by simp),
    shiftInBytes_advance ph (P := ⟨.output, .output, .input, true, false, c.getLsbD 7⟩) (by rfl) n (j := 0)
      (by simpa using h) (by rfl) (by rfl) (by simp [FrameKind.bytesOut]) rfl rfl,
    advance_setLevel (by simpa using h), setLevel_went (by simpa using h) (by simp)]
  simp only [State.went_went, burstRdEvents, List.append_assoc]
  simp
  rfl

/-- The burst write frame (R152). -/
theorem burstWrFrame_advance (h : s.quiet = true) (hf : s.frame = none) (hpe : s.periph = pe) (hd : s.draws = d)
    (c : Byte) (ds : List Byte) (hne : ds ≠ []) (k : Prog OpResult) :
    (burstWrFrame c ds k).advance s =
      k.advance (s.went (burstWrEvents c ds) [] (padsAfterWrite (ds.getLastD 0)) none (pe.taken c (.bwr ds) d)
        (pe.takenDraws c (.bwr ds) d)) := by
  subst hpe hd
  have hl : 0 < ds.length := List.length_pos_iff.mpr hne
  simp only [burstWrFrame]
  rw [lineInit_advance h hf, frameOpen_advance (by simpa using h) (by rfl),
    shiftOut_advance (by simpa using h) 0 (by rfl) rfl (by simp [FrameKind.bytesOut]; omega),
    shiftOutBytes_advance ds (m := 1) (cd := .output) (kd := .output) (dd := .output) (cl := true)
      (dl := c.getLsbD 7) (by simpa using h) (by rfl) (by rfl) hne (by simp [FrameKind.bytesOut]) rfl rfl,
    advance_setLevel (by simpa using h), setLevel_went (by simpa using h) (by simp)]
  simp only [State.went_went, burstWrEvents, List.append_assoc]
  simp
  rfl

/-- ShiftIn outside any frame (R133): every bit is a draw. -/
theorem shiftIn_idle_advance (h : s.quiet = true) (hf : s.frame = none) (hd : s.draws = d) (ph : SamplePhase)
    (k : Byte → Prog OpResult) :
    (shiftIn ph k).advance s =
      (k (oracleByte d)).advance
        (s.went (shiftInEvents ph (oracleByte d)) (byteBits (oracleByte d)) { s.pads with clkLvl := false } none
          s.periph (d + 8)) := by
  have one : ∀ {t : State} {i : Nat} {P : Pads} {pe : Peripheral}, t.quiet = true → i < 8 → t.frame = none →
      (t.pads.setLevel true .clk).setLevel false .clk = P → t.draws = d + i → t.periph = pe → ∀ k : Level → Prog OpResult,
      (clockedSample ph k).advance t =
        (k ((oracleByte d).getLsbD i)).advance
          (t.went (bitInEvents ph ((oracleByte d).getLsbD i)) [(oracleByte d).getLsbD i] P none pe (d + (i + 1))) := by
    intro t i P pe h hi hf hP hd hpe k
    have hx : ∀ {u : State}, u.frame = none → u.draws = d + i → u.dioLevel = (oracleByte d).getLsbD i ∧
        (if u.laidOut.isSome then u.draws else u.draws + 1) = d + (i + 1) := by
      intro u hu hud
      simp [State.dioLevel, State.laidOut, hu, hud, oracleByte, getLsbD_byteOf _ i hi, Nat.add_assoc]
    cases ph with
    | afterFall =>
      simp only [clockedSample]
      have e : (t.setLevel .clk true).setLevel .clk false =
          t.went [.setLevel .clk true, .setLevel .clk false] [] P none pe t.draws := by
        rw [setLevel_went h (by simp [hf]), setLevel_went (by simpa using h) (by simp [hf])]
        simp [State.went_went, hf, hP, hpe]
      rw [advance_setLevel h, advance_setLevel (by rw [setLevel_went h (by simp [hf])]; simpa using h), e,
        advance_sample (by simpa using h), settle_of_no_turn (by simp)]
      obtain ⟨k1, k2⟩ := hx (u := t.went [.setLevel .clk true, .setLevel .clk false] [] P none pe t.draws) rfl hd
      rw [k1, sampled_went (by simpa using h), k2]
      simp [State.went_went, bitInEvents]
    | beforeRise =>
      simp only [clockedSample]
      obtain ⟨k1, k2⟩ := hx hf hd
      rw [advance_sample h, settle_of_no_turn (by simp [hf]), k1, sampled_went h, k2,
        advance_setLevel (by simpa using h), setLevel_went (by simpa using h) (by simp [hf]),
        advance_setLevel (by simpa using h), setLevel_went (by simpa using h) (by simp [hf])]
      simp [State.went_went, hf, hP, hpe, bitInEvents]
  have hQ : (({ s.pads with clkLvl := false } : Pads).setLevel true .clk).setLevel false .clk =
      { s.pads with clkLvl := false } := rfl
  simp only [shiftIn, shiftInBits]
  rw [one h (i := 0) (P := { s.pads with clkLvl := false }) (pe := s.periph) (by omega) hf rfl hd rfl,
    one (by simpa using h) (i := 1) (pe := s.periph) (by omega) (State.went_frame ..) hQ (State.went_draws ..)
      (State.went_periph ..),
    one (by simpa using h) (i := 2) (pe := s.periph) (by omega) (State.went_frame ..) hQ (State.went_draws ..)
      (State.went_periph ..),
    one (by simpa using h) (i := 3) (pe := s.periph) (by omega) (State.went_frame ..) hQ (State.went_draws ..)
      (State.went_periph ..),
    one (by simpa using h) (i := 4) (pe := s.periph) (by omega) (State.went_frame ..) hQ (State.went_draws ..)
      (State.went_periph ..),
    one (by simpa using h) (i := 5) (pe := s.periph) (by omega) (State.went_frame ..) hQ (State.went_draws ..)
      (State.went_periph ..),
    one (by simpa using h) (i := 6) (pe := s.periph) (by omega) (State.went_frame ..) hQ (State.went_draws ..)
      (State.went_periph ..),
    one (by simpa using h) (i := 7) (pe := s.periph) (by omega) (State.went_frame ..) hQ (State.went_draws ..)
      (State.went_periph ..)]
  simp only [State.went_went, Nat.zero_add, Nat.reduceAdd, assemble_bits, shiftInEvents_bits]
  rfl

/-! ### What the two peripherals answer -/

theorem device_reads (c : Byte) (d : Nat) :
    Peripheral.device.reads c d = oracleByte d ∧ Peripheral.device.taken c .rd d = .device ∧
      Peripheral.device.readDraws c d = d + 8 := by
  refine ⟨?_, rfl, ?_⟩ <;>
    simp [Peripheral.reads, Peripheral.readDraws, Peripheral.lays, Peripheral.takenDraws, answerByte, answerDraws]

theorem device_taken (c : Byte) (kind : FrameKind) (d : Nat) :
    Peripheral.device.taken c kind d = .device ∧ Peripheral.device.takenDraws c kind d = d := by
  cases kind <;> exact ⟨rfl, rfl⟩

/-- No frame turns the reference peripheral into the device. -/
theorem reference_stays (rp : RefPeripheral) (c : Byte) (kind : FrameKind) (d : Nat) :
    ∃ rp', (Peripheral.reference rp).taken c kind d = .reference rp' := by
  cases kind <;> simp only [Peripheral.taken, RefPeripheral.stray] <;> split <;>
    first | exact ⟨_, rfl⟩ | (split <;> exact ⟨_, rfl⟩)

/-- A read command of clock register `i` returns that register and leaves the reference peripheral as it was (R86). -/
theorem reference_reads (rp : RefPeripheral) (c : Byte) (d : Nat) {i : Nat} (hr : cmdReads c = true)
    (hs : cmdSpace c = 2) (hi : cmdIdx c = i) (hle : i ≤ 8) :
    (Peripheral.reference rp).reads c d = rp.reg i ∧ (Peripheral.reference rp).taken c .rd d = .reference rp ∧
      (Peripheral.reference rp).readDraws c d = d := by
  have h : rp.respByte c 0 = some (rp.reg i) := by simp [RefPeripheral.respByte, hr, hs, hi, hle]
  refine ⟨?_, ?_, ?_⟩ <;>
    simp [Peripheral.reads, Peripheral.readDraws, Peripheral.lays, Peripheral.taken, Peripheral.takenDraws, answerByte,
      answerDraws, hr, h, List.range_succ]

/-- A write command of clock register `i` writes it where the gate lets it (R87). -/
theorem reference_taken (rp : RefPeripheral) (c v : Byte) (d : Nat) {i : Nat} (hr : cmdReads c = false)
    (hs : cmdSpace c = 2) (hi : cmdIdx c = i) (hle : i ≤ 8) (hg : rp.gate i = true) :
    (Peripheral.reference rp).taken c (.wr v) d = .reference (rp.setReg i v) ∧
      (Peripheral.reference rp).takenDraws c (.wr v) d = d := by
  simp [Peripheral.taken, Peripheral.takenDraws, RefPeripheral.write, hr, hs, hi, hle, hg]

end Sys2Proof.Machine
end

