-- ==== Sys2Proof/Laws/Operations.lean ====
section
/-! SUPPORT. What a stretch of a rule does to a state that no host act disturbs: the transfers, the guard and the bodies of
the field writes, and how an operation that has just started ends. -/

namespace Sys2Proof.Machine

/-- A stretch of a rule, run from `s`: it has the events `es` and leaves the pads `P`, no open frame, the peripheral `pe`
and the count of draws `d`. -/
def Runs (stretch : Prog OpResult → Prog OpResult) (s : State) (es : List LineEvent) (P : Pads) (pe : Peripheral)
    (d : Nat) : Prop :=
  ∃ bits, ∀ k, (stretch k).advance s = k.advance (s.went es bits P none pe d)

/-- The same for a stretch that hands the value `v` to the rest of the rule. -/
def Yields {β : Type} (stretch : (β → Prog OpResult) → Prog OpResult) (s : State) (es : List LineEvent) (v : β)
    (P : Pads) (pe : Peripheral) (d : Nat) : Prop :=
  ∃ bits, ∀ k, (stretch k).advance s = (k v).advance (s.went es bits P none pe d)

/-- No host act lands inside the operation and no frame is open. -/
def Between (s : State) : Prop := s.quiet = true ∧ s.frame = none

theorem between_went {s : State} (h : Between s) (es : List LineEvent) (bits : List Level) (P : Pads)
    (pe : Peripheral) (d : Nat) : Between (s.went es bits P none pe d) :=
  ⟨by simpa using h.1, rfl⟩

theorem rdXfer_yields {s : State} (h : Between s) (ph : SamplePhase) (c : Byte) :
    Yields (rdXfer ph c) s (rdXferEvents ph c (s.periph.reads c s.draws)) (s.periph.reads c s.draws)
      (padsAfterRead c) (s.periph.taken c .rd s.draws) (s.periph.readDraws c s.draws) :=
  ⟨_, fun k => rdXfer_advance h.1 h.2 rfl rfl ph c k⟩

theorem wrXfer_runs {s : State} (h : Between s) (c v : Byte) :
    Runs (wrXfer c v) s (wrXferEvents c v) (padsAfterWrite v) (s.periph.taken c (.wr v) s.draws)
      (s.periph.takenDraws c (.wr v) s.draws) :=
  ⟨_, fun k => wrXfer_advance h.1 h.2 rfl rfl c v k⟩

/-- A read of clock register `i` (R142, R80, R86). -/
theorem rdXfer_register {s : State} (h : Between s) (ph : SamplePhase) (c : Byte) {i : Nat} (hr : cmdReads c = true)
    (hs : cmdSpace c = 2) (hi : cmdIdx c = i) (hle : i ≤ 8) :
    ∃ v pe d, Yields (rdXfer ph c) s (rdXferEvents ph c v) v (padsAfterRead c) pe d ∧ ReadsRegister s i v pe d := by
  refine ⟨_, _, _, rdXfer_yields h ph c, ?_, ?_⟩
  · intro hp
    rw [hp]
    exact device_reads c s.draws
  · intro rp hp
    rw [hp]
    exact reference_reads rp c s.draws hr hs hi hle

/-- A write of clock register `i` (R143, R87), the gate being open for it. -/
theorem wrXfer_register {s : State} (h : Between s) (c v : Byte) {i : Nat} (hr : cmdReads c = false)
    (hs : cmdSpace c = 2) (hi : cmdIdx c = i) (hle : i ≤ 8) :
    ∃ pe d, Runs (wrXfer c v) s (wrXferEvents c v) (padsAfterWrite v) pe d ∧
      (s.periph = .device → pe = .device) ∧
      ∀ rp, s.periph = .reference rp → rp.gate i = true → pe = .reference (rp.setReg i v) ∧ d = s.draws := by
  refine ⟨_, _, wrXfer_runs h c v, ?_, ?_⟩
  · intro hp
    rw [hp]
    exact (device_taken c (.wr v) s.draws).1
  · intro rp hp hg
    rw [hp]
    exact reference_taken rp c v s.draws hr hs hi hle hg

/-- WpWrite (R202). -/
theorem wpWrite_runs {s : State} (h : Between s) (f : Byte) :
    ∃ pe d, Runs (wpWrite f) s (wpWriteEvents f) (padsAfterWrite (f <<< 7)) pe d ∧
      (s.periph = .device → pe = .device) ∧
      ∀ rp, s.periph = .reference rp → pe = .reference (rp.setReg 7 (f <<< 7)) ∧ d = s.draws := by
  obtain ⟨pe, d, hrun, hd, hrp⟩ :=
    wrXfer_register h 0x8E (f <<< 7) (i := 7) (by decide) (by decide) (by decide) (by decide)
  exact ⟨pe, d, hrun, hd, fun rp hp => hrp rp hp rfl⟩

/-- Two stretches in a row. -/
theorem Runs.comp {a b : Prog OpResult → Prog OpResult} {s : State} {es es' : List LineEvent} {P P' : Pads}
    {pe pe' : Peripheral} {d d' : Nat} (h : Runs a s es P pe d)
    (h' : ∀ bits, Runs b (s.went es bits P none pe d) es' P' pe' d') : Runs (fun k => a (b k)) s (es ++ es') P' pe' d' := by
  obtain ⟨bits, ha⟩ := h
  obtain ⟨bits', hb⟩ := h' bits
  exact ⟨_, fun k => by rw [ha, hb, State.went_went]⟩

/-- A read, then a stretch that depends on what was read. -/
theorem Yields.comp {β : Type} {a : (β → Prog OpResult) → Prog OpResult} {b : β → Prog OpResult → Prog OpResult}
    {s : State} {es es' : List LineEvent} {v : β} {P P' : Pads} {pe pe' : Peripheral} {d d' : Nat}
    (h : Yields a s es v P pe d) (h' : ∀ bits, Runs (b v) (s.went es bits P none pe d) es' P' pe' d') :
    Runs (fun k => a fun x => b x k) s (es ++ es') P' pe' d' := by
  obtain ⟨bits, ha⟩ := h
  obtain ⟨bits', hb⟩ := h' bits
  exact ⟨_, fun k => by rw [ha, hb, State.went_went]⟩

/-- WP = 0 opens the gate for every register (R87). -/
theorem gate_setReg (rp : RefPeripheral) (i : Nat) : (rp.setReg 7 0).gate i = true := by
  simp [RefPeripheral.gate, RefPeripheral.writable, RefPeripheral.setReg, RefPeripheral.reg, bit]

theorem reg_setReg_ne (rp : RefPeripheral) {i j : Nat} (v : Byte) (h : j ≠ i) : (rp.setReg i v).reg j = rp.reg j := by
  simp only [RefPeripheral.setReg, RefPeripheral.reg]
  rw [Vector.getElem?_setIfInBounds_ne (by omega)]

theorem reg_setReg_self (rp : RefPeripheral) {i : Nat} (v : Byte) (h : i ≤ 8) : (rp.setReg i v).reg i = v := by
  have : i < 9 := by omega
  simp [RefPeripheral.setReg, RefPeripheral.reg, this]

/-- The guard around a stretch (R201). `x` stands for what the peripheral answered inside; `A rp x rp'` says what the
stretch makes of a reference peripheral whose WP is 0, and `C` is when it uses no draws on one. -/
theorem guarded_runs {X : Type} {C : Prop} {s : State} (h : Between s) (P : Params) {inner : Prog OpResult → Prog OpResult}
    {E : X → List LineEvent} {A : RefPeripheral → X → RefPeripheral → Prop}
    (hi : ∀ t, Between t → ∃ x Q pe d, Runs inner t (E x) Q pe d ∧ (t.periph = .device → pe = .device) ∧
      ∀ rp, t.periph = .reference (rp.setReg 7 0) →
        ∃ rp', A rp x rp' ∧ pe = .reference rp' ∧ (C → d = t.draws)) :
    ∃ wp x pe d, Runs (guarded P inner) s (guardedEvents P wp (E x)) (padsAfterWrite (guardRestores P wp <<< 7)) pe d ∧
      (s.periph = .device → pe = .device) ∧
      ∀ rp, s.periph = .reference rp → ∃ rp', A rp x rp' ∧ (P.wpRestore = .restorePrior → wp = rp.reg 7) ∧
        pe = .reference (rp'.setReg 7 (guardRestores P wp <<< 7)) ∧ (C → d = s.draws) := by
  have core : ∀ (t : State), Between t → ∀ f : Byte, ∃ x pe d,
      Runs (fun k => wpWrite 0 (inner (wpWrite f k))) t (wpWriteEvents 0 ++ (E x ++ wpWriteEvents f))
        (padsAfterWrite (f <<< 7)) pe d ∧ (t.periph = .device → pe = .device) ∧
      ∀ rp, t.periph = .reference rp → ∃ rp', A rp x rp' ∧ pe = .reference (rp'.setReg 7 (f <<< 7)) ∧
        (C → d = t.draws) := by
    intro t ht f
    obtain ⟨pe0, d0, ⟨b0, h0⟩, hd0, hr0⟩ := wpWrite_runs ht 0
    have w0 := between_went ht (wpWriteEvents 0) b0 (padsAfterWrite ((0 : Byte) <<< 7)) pe0 d0
    obtain ⟨x, Q, pe1, d1, ⟨b1, h1⟩, hd1, hr1⟩ := hi _ w0
    obtain ⟨pe2, d2, ⟨b2, h2⟩, hd2, hr2⟩ := wpWrite_runs (between_went w0 (E x) b1 Q pe1 d1) f
    refine ⟨x, pe2, d2, ⟨b0 ++ (b1 ++ b2), fun k => ?_⟩, ?_, ?_⟩
    · rw [h0, h1, h2]
      simp only [State.went_went, List.append_assoc]
    · exact fun hp => hd2 (hd1 (hd0 hp))
    · intro rp hp
      obtain ⟨e0, e0'⟩ := hr0 rp hp
      obtain ⟨rp', hA, e1, e1'⟩ := hr1 rp e0
      obtain ⟨e2, e2'⟩ := hr2 rp' e1
      exact ⟨rp', hA, e2, fun hC => by rw [e2']; show d1 = _; rw [e1' hC]; exact e0'⟩
  unfold guarded guardedEvents guardRestores
  cases P.wpRestore with
  | forceSet =>
    obtain ⟨x, pe, d, hrun, hd, hrp⟩ := core s h 1
    refine ⟨0, x, pe, d, ?_, hd, ?_⟩
    · simpa only [List.append_assoc] using hrun
    · intro rp hp
      obtain ⟨rp', hA, e, e'⟩ := hrp rp hp
      exact ⟨rp', hA, by simp, e, e'⟩
  | restorePrior =>
    obtain ⟨wp, pe0, d0, ⟨b0, h0⟩, hd0, hr0⟩ :=
      rdXfer_register h P.samplePhase 0x8F (i := 7) (by decide) (by decide) (by decide) (by decide)
    have w0 := between_went h (rdXferEvents P.samplePhase 0x8F wp) b0 (padsAfterRead 0x8F) pe0 d0
    obtain ⟨x, pe, d, ⟨b1, h1⟩, hd1, hr1⟩ := core _ w0 (bit wp 7)
    refine ⟨wp, x, pe, d, ⟨b0 ++ b1, fun k => ?_⟩, fun hp => hd1 (hd0 hp).2.1, ?_⟩
    · rw [h0, h1]
      simp only [State.went_went, List.append_assoc]
    · intro rp hp
      obtain ⟨e0, e0', e0''⟩ := hr0 rp hp
      obtain ⟨rp', hA, e, e'⟩ := hr1 rp e0'
      exact ⟨rp', hA, fun _ => e0, e, fun hC => (e' hC).trans e0''⟩

/-- A guarded field write that reads register `i` with command `rc` and then writes `b raw` with command `wc`, or writes
nothing where that is `none`. -/
theorem fieldWrite_runs {s : State} (h : Between s) {i : Nat} (rc wc : Byte) (b : Byte → Option Byte)
    {body : Prog OpResult → Prog OpResult}
    (hb : body = guarded s.params fun out => rdXfer s.params.samplePhase rc fun raw =>
      match b raw with
      | some v => wrXfer wc v out
      | none => out)
    (hr : cmdReads rc = true) (hs : cmdSpace rc = 2) (hi : cmdIdx rc = i) (hw : cmdReads wc = false)
    (hws : cmdSpace wc = 2) (hwi : cmdIdx wc = i) (hle : i ≤ 8) (hne : i ≠ 7) :
    ∃ wp raw pe d,
      Runs body s (fieldWriteEvents s.params wp rc raw wc (b raw)) (padsAfterWrite (guardRestores s.params wp <<< 7)) pe d ∧
      GuardedWrite s i raw (b raw) wp pe d := by
  subst hb
  obtain ⟨wp, raw, pe, d, hrun, hd, hrp⟩ := guarded_runs (X := Byte) (C := True) h s.params
    (inner := fun out => rdXfer s.params.samplePhase rc fun raw =>
      match b raw with
      | some v => wrXfer wc v out
      | none => out)
    (E := fun raw => rdXferEvents s.params.samplePhase rc raw ++
      match b raw with
      | some v => wrXferEvents wc v
      | none => [])
    (A := fun rp raw rp' => raw = rp.reg i ∧ rp' = match b raw with
      | some v => (rp.setReg 7 0).setReg i v
      | none => rp.setReg 7 0) (by
    intro t ht
    obtain ⟨raw, pe, d, ⟨b0, h0⟩, hd0, hr0⟩ := rdXfer_register ht s.params.samplePhase rc hr hs hi hle
    cases hbr : b raw with
    | none =>
      refine ⟨raw, padsAfterRead rc, pe, d, ⟨b0, fun k => ?_⟩, fun hp => (hd0 hp).2.1, ?_⟩
      · rw [h0]
        simp only [hbr, List.append_nil]
      · intro rp hp
        obtain ⟨e, e', e''⟩ := hr0 _ hp
        rw [reg_setReg_ne rp 0 hne] at e
        exact ⟨_, ⟨e, by simp [hbr]⟩, e', fun _ => e''⟩
    | some v =>
      have w0 := between_went ht (rdXferEvents s.params.samplePhase rc raw) b0 (padsAfterRead rc) pe d
      obtain ⟨pe1, d1, ⟨b1, h1⟩, hd1, hr1⟩ := wrXfer_register w0 wc v hw hws hwi hle
      refine ⟨raw, padsAfterWrite v, pe1, d1, ⟨b0 ++ b1, fun k => ?_⟩, fun hp => hd1 (hd0 hp).2.1, ?_⟩
      · rw [h0]
        simp only [hbr]
        rw [h1, State.went_went]
      · intro rp hp
        obtain ⟨e, e', e''⟩ := hr0 _ hp
        obtain ⟨e1, e1'⟩ := hr1 _ e' (gate_setReg rp i)
        rw [reg_setReg_ne rp 0 hne] at e
        exact ⟨_, ⟨e, by simp [hbr]⟩, e1, fun _ => e1'.trans e''⟩)
  refine ⟨wp, raw, pe, d, hrun, hd, fun rp hp => ?_⟩
  obtain ⟨rp', ⟨e, e'⟩, hwp, hpe, hdr⟩ := hrp rp hp
  refine ⟨e, hwp, ?_, hdr trivial⟩
  rw [hpe, e']
  cases b raw <;> rfl

/-- A guarded field write that reads nothing. -/
theorem rawWrite_runs {s : State} (h : Between s) {i : Nat} (wc v : Byte) {body : Prog OpResult → Prog OpResult}
    (hb : body = guarded s.params fun out => wrXfer wc v out) (hw : cmdReads wc = false) (hws : cmdSpace wc = 2)
    (hwi : cmdIdx wc = i) (hle : i ≤ 8) :
    ∃ wp pe d,
      Runs body s (rawWriteEvents s.params wp wc v) (padsAfterWrite (guardRestores s.params wp <<< 7)) pe d ∧
      GuardedRawWrite s i v wp pe d := by
  subst hb
  obtain ⟨wp, _, pe, d, hrun, hd, hrp⟩ := guarded_runs (X := Unit) (C := True) h s.params
    (inner := fun out => wrXfer wc v out) (E := fun _ => wrXferEvents wc v)
    (A := fun rp _ rp' => rp' = (rp.setReg 7 0).setReg i v) (by
    intro t ht
    obtain ⟨pe, d, hrun, hd, hrp⟩ := wrXfer_register ht wc v hw hws hwi hle
    refine ⟨(), _, pe, d, hrun, hd, fun rp hp => ?_⟩
    obtain ⟨e, e'⟩ := hrp _ hp (gate_setReg rp i)
    exact ⟨_, rfl, e, fun _ => e'⟩)
  refine ⟨wp, pe, d, hrun, hd, fun rp hp => ?_⟩
  obtain ⟨rp', e, hwp, hpe, hdr⟩ := hrp rp hp
  exact ⟨hwp, by rw [hpe, e]; rfl, hdr trivial⟩

/-! ### Starting and ending -/

/-- An operation that stands at its first event runs its whole rule. -/
theorem operate_started {s : State} {w : OpWord} (hs : s.seq = some { word := w, next := 0, samples := [] })
    (rule : Params → Snapshot → Prog OpResult) :
    s.operate rule = .next ((rule s.params s.snap).advance s) := by
  simp only [State.operate, hs]
  cases rule s.params s.snap <;> rfl

theorem went_complete {s : State} (h : Between s) (es : List LineEvent) (bits : List Level) (P : Pads)
    (pe : Peripheral) (d : Nat) (r : OpResult) :
    (s.went es bits P none pe d).complete r =
      { s.writeResult r with trace := s.trace ++ es, pads := P, periph := pe, draws := d, err := r.code, seq := none } := by
  cases r <;> simp [State.complete, State.writeResult, State.went, countDown_of_quiet h.1, h.2]

theorem lowersDio_iff (s : State) :
    s.lowersDio = true ↔ s.params.dioRest = .low ∧ s.pads.dioDir = .output ∧ s.pads.dioLvl = true := by
  simp [State.lowersDio, and_assoc]

/-- How a stretch and then the end of the rule leave the state: every field that is not named is as in `s`. -/
theorem went_finish {s : State} (h : Between s) (es : List LineEvent) (bits : List Level) (P : Pads)
    (pe : Peripheral) (d : Nat) (r : OpResult) :
    (s.went es bits P none pe d).finish r = (s.writeResult r).ended es P pe d r.code := by
  have hiff : (r.code = errOk ∧ (s.went es bits P none pe d).lowersDio = true) ↔
      (r.code = 0 ∧ s.params.dioRest = .low ∧ P.dioDir = .output ∧ P.dioLvl = true) := and_congr Iff.rfl (lowersDio_iff _)
  have hq : (s.went es bits P none pe d).quiet = true := h.1
  unfold State.finish State.ended restEvents
  rw [State.writeResult_params]
  by_cases hc : r.code = 0 ∧ s.params.dioRest = .low ∧ P.dioDir = .output ∧ P.dioLvl = true
  · rw [if_pos (hiff.mpr hc), if_pos hc, setLevel_went hq (by simp)]
    simp only [State.went_went, State.went_pads, State.went_frame, State.went_periph, State.went_draws, Option.bind_none]
    rw [if_neg (by simp [hostDue_of_quiet (show (s.went _ _ _ none pe d).quiet = true from h.1)]), went_complete h]
    simp [Pads.replay, Pads.after]
  · rw [if_neg (fun x => hc (hiff.mp x)), if_neg hc, went_complete h]
    simp [Pads.replay]

/-- Where DIO is to rest low it does so after an operation that raised no error, unless it is an input (R275). -/
theorem ended_rests {s : State} {es : List LineEvent} {p : Pads} {pe : Peripheral} {d : Nat}
    (h : s.params.dioRest = .low) (hd : (s.ended es p pe d 0).pads.dioDir = .output) :
    (s.ended es p pe d 0).pads.dioLvl = false := by
  revert hd
  simp only [State.ended, restEvents, h]
  split <;> rename_i hc
  · intro _; rfl
  · intro hd
    show p.dioLvl = false
    simpa [show p.dioDir = .output from hd] using hc

/-- A stretch that ends the operation. -/
theorem Runs.finish {a : Prog OpResult → Prog OpResult} {s : State} {es : List LineEvent} {P : Pads} {pe : Peripheral}
    {d : Nat} (hs : Between s) (h : Runs a s es P pe d) (r : OpResult) :
    (a (.ret r)).advance s = (s.writeResult r).ended es P pe d r.code := by
  obtain ⟨bits, ha⟩ := h
  rw [ha, advance_ret (by simpa using hs.1), went_finish hs]

/-- A read that ends the operation. -/
theorem Yields.finish {β : Type} {a : (β → Prog OpResult) → Prog OpResult} {s : State} {es : List LineEvent} {v : β}
    {P : Pads} {pe : Peripheral} {d : Nat} (hs : Between s) (h : Yields a s es v P pe d) (r : β → OpResult) :
    (a fun x => .ret (r x)).advance s = (s.writeResult (r v)).ended es P pe d (r v).code := by
  obtain ⟨bits, ha⟩ := h
  rw [ha, advance_ret (by simpa using hs.1), went_finish hs]

end Sys2Proof.Machine
end

