-- ==== Sys2Proof/Laws/Burst.lean ====
section
/-! SUPPORT. What the burst transfers do: the bytes a burst read brings into the buffer, and what a burst write makes of
the reference peripheral. -/

namespace Sys2Proof.Machine

/-- The gate on a register index: index 7 always, any other index while WP = 0 (R87). -/
theorem gate_iff (rp : RefPeripheral) (i : Nat) : rp.gate i = true ↔ i = 7 ∨ (rp.reg 7).getLsbD 7 = false := by
  have h : ∀ v : Byte, (bit v 7 == 0) = !v.getLsbD 7 := by decide +kernel
  simp only [RefPeripheral.gate, RefPeripheral.writable, h]
  simp

/-! ### The buffer -/

/-- Writing a list of bytes from byte `j` on. -/
theorem putFrom_byte (vs : List Byte) {k : Nat} (hk : k ≤ 30) :
    ∀ (j : Nat) (buf : Buffer),
      (buf.putFrom j vs).byte k = if j ≤ k ∧ k < j + vs.length then vs.getD (k - j) 0 else buf.byte k := by
  induction vs with
  | nil =>
    intro j buf
    rw [if_neg (by rintro ⟨a, b⟩; simp at b; omega)]
    rfl
  | cons v vs ih =>
    intro j buf
    simp only [Buffer.putFrom]
    rw [ih]
    by_cases h1 : j + 1 ≤ k ∧ k < j + 1 + vs.length
    · rw [if_pos h1, if_pos (by simp; omega)]
      obtain ⟨m, rfl⟩ : ∃ m, k = j + 1 + m := ⟨k - j - 1, by omega⟩
      rw [show j + 1 + m - (j + 1) = m by omega, show j + 1 + m - j = m + 1 by omega, List.getD_cons_succ]
    · rw [if_neg h1]
      by_cases h2 : k = j
      · subst h2
        rw [if_pos (by simp), byte_put_self _ _ hk]
        simp
      · rw [if_neg (by simp at h1 ⊢; omega), byte_put_ne _ _ (by omega)]

/-- The first `n` bytes by index. -/
theorem firstBytes_eq (b : Buffer) {n : Nat} (hn : n ≤ 31) : b.firstBytes n = (List.range n).map b.byte := by
  apply List.ext_getElem
  · simp [Buffer.firstBytes]
    omega
  · intro i _ h
    simp at h
    simp [Buffer.firstBytes, Buffer.byte]
    rw [Vector.getElem?_eq_getElem (by omega)]
    rfl

/-! ### Burst reads -/

/-- Where no byte is laid out, every byte of a burst read is eight draws (R80). -/
theorem burstAnswers_draws (n : Nat) :
    ∀ j d k, k < n → (burstAnswers [] j n d).getD k 0 = oracleByte (d + 8 * k) := by
  induction n with
  | zero => intro _ _ _ h; omega
  | succ n ih =>
    intro j d k h
    cases k with
    | zero => simp [burstAnswers, answerByte]
    | succ k =>
      simp only [burstAnswers, List.getD_cons_succ]
      rw [ih _ _ k (by omega)]
      simp only [answerDraws, List.getD_nil, Option.isSome_none, Bool.false_eq_true, if_false]
      congr 1
      omega

/-- Laid-out bytes are what a burst read returns (R86). -/
theorem burstAnswers_laid (f : Nat → Byte) (resp : List (Option Byte)) (n : Nat) :
    ∀ m j d, m ≤ n → (∀ k, j ≤ k → k < j + m → resp.getD k none = some (f k)) →
      ∀ k, k < m → (burstAnswers resp j n d).getD k 0 = f (j + k) := by
  induction n with
  | zero => intro m j d hm _ k hk; omega
  | succ n ih =>
    intro m j d hm hr k hk
    simp only [burstAnswers]
    cases k with
    | zero =>
      rw [hr j (by omega) (by omega)]
      rfl
    | succ k =>
      rw [List.getD_cons_succ, ih (m - 1) (j + 1) _ (by omega) (fun k h1 h2 => hr k (by omega) (by omega)) k (by omega)]
      congr 1
      omega

/-- An operation that is one burst read of `n` bytes (R151, R153, R154). -/
theorem burstRead_finish {s : State} (h : Between s) (c : Byte) (n : Nat) :
    ∃ vs pe d,
      (burstRdXfer s.params.samplePhase c n fun bs => .ret (.bytes bs)).advance s =
        { s.ended (burstRdEvents s.params.samplePhase c vs) (padsAfterRead c) pe d 0 with buf := s.buf.putFrom 0 vs } ∧
      vs.length = n ∧
      (s.periph = .device → pe = .device ∧ ∀ k, k < n → vs.getD k 0 = oracleByte (s.draws + 8 * k)) ∧
      ∀ rp, s.periph = .reference rp → cmdReads c = true →
        pe = .reference rp ∧ ∀ (m : Nat) (f : Nat → Byte), m ≤ n → (∀ k, k < m → rp.respByte c k = some (f k)) →
          ∀ k, k < m → vs.getD k 0 = f k := by
  refine ⟨_, s.periph.taken c (.brd n) s.draws,
    burstDraws (s.periph.lays c (.brd n)) 0 n (s.periph.takenDraws c (.brd n) s.draws), ?_,
    length_burstAnswers (s.periph.lays c (.brd n)) n 0 (s.periph.takenDraws c (.brd n) s.draws), ?_, ?_⟩
  · rw [burstRdXfer_advance h.1 h.2 rfl rfl, advance_ret (by simpa using h.1), went_finish h]
    rfl
  · intro hp
    rw [hp]
    exact ⟨rfl, fun k hk => burstAnswers_draws n 0 s.draws k hk⟩
  · intro rp hp hc
    rw [hp]
    refine ⟨by simp [Peripheral.taken, hc], fun m f hm hf k hk => ?_⟩
    have := burstAnswers_laid f ((Peripheral.reference rp).lays c (.brd n)) n m 0
      ((Peripheral.reference rp).takenDraws c (.brd n) s.draws) hm (fun k _ hk => by
        simp only [Peripheral.lays, hc, if_true]
        rw [List.getD_eq_getElem?_getD, List.getElem?_map, List.getElem?_range (by omega)]
        simpa using hf k (by omega)) k hk
    simpa using this

/-! ### Burst writes -/

theorem burstClock_cons (rp : RefPeripheral) (k : Nat) (d : Byte) (ds : List Byte) :
    rp.burstClock k (d :: ds) =
      RefPeripheral.burstClock (if k ≤ 8 ∧ rp.gate k = true then rp.setReg k d else rp) (k + 1) ds := rfl

/-- Bytes past 8 are ignored (R88). -/
theorem burstClock_past (ds : List Byte) : ∀ (rp : RefPeripheral) (k : Nat), 9 ≤ k → rp.burstClock k ds = rp := by
  induction ds with
  | nil => intros; rfl
  | cons d ds ih =>
    intro rp k hk
    rw [burstClock_cons, if_neg (by omega), ih _ _ (by omega)]

/-- The bytes before byte 7 meet one and the same gate. -/
theorem burstClock_low (ds : List Byte) : ∀ (n : Nat) (rp : RefPeripheral) (k : Nat), k + n = 7 → n ≤ ds.length →
    ∃ R : RefPeripheral, rp.burstClock k ds = R.burstClock 7 (ds.drop n) ∧ R.rpr = rp.rpr ∧ R.reg 7 = rp.reg 7 ∧
      R.reg 8 = rp.reg 8 ∧ (∀ j, j < k → R.reg j = rp.reg j) ∧
      ∀ j, k ≤ j → j < 7 → R.reg j = if (rp.reg 7).getLsbD 7 then rp.reg j else ds.getD (j - k) 0 := by
  induction ds with
  | nil =>
    intro n rp k hk hn
    simp at hn
    subst hn
    exact ⟨rp, by simp at hk; simp [hk], rfl, rfl, rfl, fun _ _ => rfl, fun j a b => by omega⟩
  | cons d ds ih =>
    intro n rp k hk hn
    cases n with
    | zero => exact ⟨rp, by simp at hk; simp [hk], rfl, rfl, rfl, fun _ _ => rfl, fun j a b => by omega⟩
    | succ n =>
      rw [burstClock_cons]
      have hk6 : k ≤ 6 := by omega
      cases hw : (rp.reg 7).getLsbD 7
      · rw [if_pos ⟨by omega, by rw [gate_iff]; exact .inr hw⟩]
        obtain ⟨R, e, hr, h7, h8, hl, hh⟩ := ih n (rp.setReg k d) (k + 1) (by omega) (by simpa using hn)
        rw [reg_setReg_ne _ _ (by omega)] at h7 h8
        refine ⟨R, by simpa using e, hr, h7, h8, fun j hj => by rw [hl j (by omega), reg_setReg_ne _ _ (by omega)],
          fun j hj hj7 => ?_⟩
        rcases Nat.eq_or_lt_of_le hj with rfl | hlt
        · rw [hl k (by omega), reg_setReg_self _ _ (by omega)]
          simp
        · rw [hh j (by omega) hj7, reg_setReg_ne _ _ (by omega), hw]
          obtain ⟨m, rfl⟩ : ∃ m, j = k + 1 + m := ⟨j - k - 1, by omega⟩
          rw [show k + 1 + m - (k + 1) = m by omega, show k + 1 + m - k = m + 1 by omega]
          simp
      · rw [if_neg (by rintro ⟨_, h⟩; rw [gate_iff, hw] at h; simp at h; omega)]
        obtain ⟨R, e, hr, h7, h8, hl, hh⟩ := ih n rp (k + 1) (by omega) (by simpa using hn)
        refine ⟨R, by simpa using e, hr, h7, h8, fun j hj => hl j (by omega), fun j hj hj7 => ?_⟩
        rcases Nat.eq_or_lt_of_le hj with rfl | hlt
        · rw [hl k (by omega)]
          simp
        · rw [hh j (by omega) hj7, hw]
          simp

/-- The nine clock bytes of a burst write (R88): byte 7 decides on byte 8. -/
theorem burstClock_nine (rp : RefPeripheral) (ds : List Byte) (h : 9 ≤ ds.length) :
    (∀ k, k ≤ 6 → (rp.burstClock 0 ds).reg k = if (rp.reg 7).getLsbD 7 then rp.reg k else ds.getD k 0) ∧
      (rp.burstClock 0 ds).reg 7 = ds.getD 7 0 ∧
      (rp.burstClock 0 ds).reg 8 = (if (ds.getD 7 0).getLsbD 7 then rp.reg 8 else ds.getD 8 0) ∧
      (rp.burstClock 0 ds).rpr = rp.rpr := by
  obtain ⟨R, e, hr, h7, h8, -, hh⟩ := burstClock_low ds 7 rp 0 rfl (by omega)
  rw [e, List.drop_eq_getElem_cons (by omega), List.drop_eq_getElem_cons (by omega), burstClock_cons,
    if_pos ⟨by omega, by rw [gate_iff]; exact .inl rfl⟩, burstClock_cons, burstClock_past _ _ _ (by omega)]
  have e7 : ds.getD 7 0 = ds[7] := by
    rw [List.getD_eq_getElem?_getD, List.getElem?_eq_getElem (by omega)]
    rfl
  have e8 : ds.getD 8 0 = ds[8] := by
    rw [List.getD_eq_getElem?_getD, List.getElem?_eq_getElem (by omega)]
    rfl
  have hlow : ∀ k, k ≤ 6 → R.reg k = if (rp.reg 7).getLsbD 7 then rp.reg k else ds.getD k 0 :=
    fun k hk => by simpa using hh k (by omega) (by omega)
  rw [e7, e8]
  cases hd : ds[7].getLsbD 7
  · rw [if_pos ⟨by omega, by rw [gate_iff, reg_setReg_self _ _ (by omega)]; exact .inr hd⟩]
    refine ⟨fun k hk => ?_, ?_, ?_, hr⟩
    · rw [reg_setReg_ne _ _ (by omega), reg_setReg_ne _ _ (by omega), hlow k hk]
    · rw [reg_setReg_ne _ _ (by omega), reg_setReg_self _ _ (by omega)]
    · rw [reg_setReg_self _ _ (by omega)]
      simp
  · rw [if_neg (by rintro ⟨_, hg⟩; rw [gate_iff, reg_setReg_self _ _ (by omega), hd] at hg; simp at hg)]
    refine ⟨fun k hk => ?_, ?_, ?_, hr⟩
    · rw [reg_setReg_ne _ _ (by omega), hlow k hk]
    · rw [reg_setReg_self _ _ (by omega)]
    · rw [reg_setReg_ne _ _ (by omega), h8]
      simp

/-- BurstWrXfer (R152): the frame inside the guard, so the peripheral takes a write command with WP = 0. -/
theorem burstWrXfer_runs {s : State} (h : Between s) (c : Byte) {ds : List Byte} (hne : ds ≠ []) :
    ∃ wp pe d,
      Runs (burstWrXfer s.params c ds) s (guardedEvents s.params wp (burstWrEvents c ds))
        (padsAfterWrite (guardRestores s.params wp <<< 7)) pe d ∧
      (s.periph = .device → pe = .device) ∧
      ∀ rp, s.periph = .reference rp →
        ∃ rp' : RefPeripheral, (cmdReads c = false → rp' = (rp.setReg 7 0).burstWrite c ds ∧ d = s.draws) ∧
          (s.params.wpRestore = .restorePrior → wp = rp.reg 7) ∧
          pe = .reference (rp'.setReg 7 (guardRestores s.params wp <<< 7)) := by
  obtain ⟨wp, _, pe, d, hrun, hd, hrp⟩ := guarded_runs (X := Unit) (C := cmdReads c = false) h s.params
    (inner := burstWrFrame c ds) (E := fun _ => burstWrEvents c ds)
    (A := fun rp _ rp' => cmdReads c = false → rp' = (rp.setReg 7 0).burstWrite c ds) (by
    intro t ht
    refine ⟨(), padsAfterWrite (ds.getLastD 0), t.periph.taken c (.bwr ds) t.draws,
      t.periph.takenDraws c (.bwr ds) t.draws, ⟨[], fun k => burstWrFrame_advance ht.1 ht.2 rfl rfl c ds hne k⟩,
      fun hp => ?_, fun rp hp => ?_⟩
    · rw [hp]
      exact (device_taken _ _ _).1
    · rw [hp]
      obtain ⟨rp', hpe⟩ := reference_stays (rp.setReg 7 0) c (.bwr ds) t.draws
      refine ⟨rp', fun hc => ?_, hpe, fun hc => by simp [Peripheral.takenDraws, hc]⟩
      simp only [Peripheral.taken, hc] at hpe
      injection hpe with e
      exact e.symm)
  refine ⟨wp, pe, d, hrun, hd, fun rp hp => ?_⟩
  obtain ⟨rp', e, hw, hpe, hdr⟩ := hrp rp hp
  exact ⟨rp', fun hc => ⟨e hc, hdr hc⟩, hw, hpe⟩

end Sys2Proof.Machine
end

