-- ==== Sys2Proof/Laws/Cut.lean ====
section
/-! SUPPORT. What a write frame cut by reset leaves in the reference peripheral: each register that the frame could have
written is a draw, and every other is unchanged (70_reset_and_hazards.md R292). -/

namespace Sys2Proof.Machine

theorem burstClock_rpr (ds : List Byte) : ∀ (rp : RefPeripheral) (k : Nat), (rp.burstClock k ds).rpr = rp.rpr := by
  induction ds with
  | nil => intro rp k; rfl
  | cons d ds ih => intro rp k; rw [RefPeripheral.burstClock, ih]; split <;> rfl

theorem burstRam_rpc (ds : List Byte) : ∀ (rp : RefPeripheral) (k : Nat), (rp.burstRam k ds).rpc = rp.rpc := by
  induction ds with
  | nil => intro rp k; rfl
  | cons d ds ih => intro rp k; rw [RefPeripheral.burstRam, ih]; split <;> rfl

/-! ### Single registers -/

theorem ram_setRam_ne (rp : RefPeripheral) {i j : Nat} (v : Byte) (h : j ≠ i) : (rp.setRam i v).ram j = rp.ram j := by
  simp [RefPeripheral.ram, RefPeripheral.setRam, h.symm]

theorem ram_setRam_self (rp : RefPeripheral) {i : Nat} (v : Byte) (h : i ≤ 30) : (rp.setRam i v).ram i = v := by
  have : i < 31 := by omega
  simp [RefPeripheral.ram, RefPeripheral.setRam, this]

/-! ### Each way to write, beside what the cut frees -/

theorem drawnOrKept_refl (rp : RefPeripheral) : DrawnOrKept rp rp rp :=
  ⟨fun _ _ => .inr ⟨rfl, rfl⟩, fun _ _ => .inr ⟨rfl, rfl⟩⟩

theorem drawnOrKept_reg (rp : RefPeripheral) {i n : Nat} (v : Byte) (b : Bool) (h : i ≤ 8) :
    DrawnOrKept rp (if b = true then rp.setReg i v else rp) (rp.setReg i (Config.freeByte n)) := by
  refine ⟨fun k _ => ?_, fun k _ => .inr ⟨rfl, by split <;> rfl⟩⟩
  by_cases hk : k = i
  · exact .inl ⟨n, by rw [hk, reg_setReg_self _ _ h]⟩
  · exact .inr ⟨reg_setReg_ne _ _ hk, by split; exact reg_setReg_ne _ _ hk; rfl⟩

theorem drawnOrKept_ram (rp : RefPeripheral) {i n : Nat} (v : Byte) (b : Bool) (h : i ≤ 30) :
    DrawnOrKept rp (if b = true then rp.setRam i v else rp) (rp.setRam i (Config.freeByte n)) := by
  refine ⟨fun k _ => .inr ⟨rfl, by split <;> rfl⟩, fun k _ => ?_⟩
  by_cases hk : k = i
  · exact .inl ⟨n, by rw [hk, ram_setRam_self _ _ h]⟩
  · exact .inr ⟨ram_setRam_ne _ _ hk, by split; exact ram_setRam_ne _ _ hk; rfl⟩

/-- A single-register write reaches only what `freeAt` frees. -/
theorem drawnOrKept_write (rp : RefPeripheral) (c c' v : Byte) (d : Nat) (hs : cmdSpace c' = cmdSpace c)
    (hi : cmdIdx c' = cmdIdx c) (hr : cmdReads c' = false) :
    DrawnOrKept rp (rp.write c' v) (rp.freeAt c (cmdIdx c) d) := by
  simp only [RefPeripheral.write, RefPeripheral.freeAt, hs, hi, hr, Bool.false_eq_true, if_false]
  split
  · rename_i h; exact drawnOrKept_reg rp v _ h.2
  · split
    · rename_i h; exact drawnOrKept_ram rp v _ h.2
    · exact drawnOrKept_refl rp

theorem reg_rpr (rp : RefPeripheral) (v : Vector Byte 31) (k : Nat) :
    ({ rp with rpr := v } : RefPeripheral).reg k = rp.reg k :=
  rfl

theorem ram_rpc (rp : RefPeripheral) (v : Vector Byte 9) (k : Nat) :
    ({ rp with rpc := v } : RefPeripheral).ram k = rp.ram k :=
  rfl

theorem reg_free (rp : RefPeripheral) (d : Nat) {k : Nat} (h : k < 9) :
    ({ rp with rpc := Vector.ofFn fun i : Fin 9 => Config.freeByte (d + i.val) } : RefPeripheral).reg k =
      Config.freeByte (d + k) := by
  simp [RefPeripheral.reg, h]

theorem ram_free (rp : RefPeripheral) (d : Nat) {k : Nat} (h : k < 31) :
    ({ rp with rpr := Vector.ofFn fun i : Fin 31 => Config.freeByte (d + i.val) } : RefPeripheral).ram k =
      Config.freeByte (d + k) := by
  simp [RefPeripheral.ram, h]

/-- A burst write reaches only what `freeBlock` frees. -/
theorem drawnOrKept_burst (rp : RefPeripheral) (c c' : Byte) (vs : List Byte) (d : Nat) (hs : cmdSpace c' = cmdSpace c)
    (hi : cmdIdx c' = cmdIdx c) (hr : cmdReads c' = false) :
    DrawnOrKept rp (rp.burstWrite c' vs) (rp.freeBlock c d) := by
  simp only [RefPeripheral.burstWrite, RefPeripheral.freeBlock, hs, hi, hr, Bool.false_eq_true, if_false]
  split
  · refine ⟨fun k h => .inl ⟨d + k, ?_⟩, fun k _ => .inr ⟨ram_rpc _ _ k, ?_⟩⟩
    · exact reg_free rp d h
    · rw [RefPeripheral.ram, burstClock_rpr]; rfl
  · split
    · refine ⟨fun k _ => .inr ⟨reg_rpr _ _ k, ?_⟩, fun k h => .inl ⟨d + k, ?_⟩⟩
      · rw [RefPeripheral.reg, burstRam_rpc]; rfl
      · exact ram_free rp d h
    · exact drawnOrKept_refl rp

/-- A burst write of one byte reaches only the first register of the block. -/
theorem drawnOrKept_first (rp : RefPeripheral) (c c' v : Byte) (d : Nat) (hs : cmdSpace c' = cmdSpace c)
    (hi : cmdIdx c' = cmdIdx c) (hr : cmdReads c' = false) (h31 : cmdIdx c = 31) :
    DrawnOrKept rp (rp.burstWrite c' [v]) (rp.freeAt c 0 d) := by
  simp only [RefPeripheral.burstWrite, RefPeripheral.freeAt, hs, hi, hr, h31, RefPeripheral.burstClock,
    RefPeripheral.burstRam, Nat.zero_le, true_and, and_true, Bool.false_eq_true, if_false]
  split
  · exact drawnOrKept_reg rp v _ (by omega)
  · split
    · exact drawnOrKept_ram rp v _ (by omega)
    · exact drawnOrKept_refl rp

theorem asWrite_facts : ∀ c : Byte, cmdReads (asWrite c) = false ∧ cmdSpace (asWrite c) = cmdSpace c ∧
    cmdIdx (asWrite c) = cmdIdx c := by decide +kernel

/-- A cut write frame leaves a draw in every register that the peripheral's act on its command could have changed (R292). -/
theorem cut_covers (rp rq : RefPeripheral) (f : Frame) (d e : Nat)
    (hk : (∃ v, f.kind = .wr v) ∨ ∃ vs, f.kind = .bwr vs)
    (h : (rp.act f.cmd f e).periph = .reference rq) : DrawnOrKept rp rq (rp.cut f d) := by
  obtain ⟨a, b, c⟩ := asWrite_facts f.cmd
  rcases hk with ⟨v, hk⟩ | ⟨vs, hk⟩
  all_goals
    simp only [RefPeripheral.act, RefPeripheral.cut, hk, RefPeripheral.stray, RefPeripheral.cutStray,
      RefPeripheral.mismatch, c] at h ⊢
    cases hr : cmdReads f.cmd <;> simp only [hr, if_true, if_false, Bool.false_eq_true] at h ⊢
  · cases h; exact drawnOrKept_write rp _ _ v d rfl rfl hr
  · cases hs : rp.strayRead <;> simp only [hs] at h ⊢
    · cases h; exact drawnOrKept_refl rp
    · cases h
      split
      · rename_i h31; exact drawnOrKept_first rp _ _ _ d b c a h31
      · exact drawnOrKept_write rp _ _ _ d b c a
  · cases h; exact drawnOrKept_burst rp _ _ vs d rfl rfl hr
  · cases hs : rp.strayRead <;> simp only [hs] at h ⊢
    · cases h; exact drawnOrKept_refl rp
    · cases h
      split
      · exact drawnOrKept_burst rp _ _ _ d b c a
      · exact drawnOrKept_write rp _ _ _ d b c a
end Sys2Proof.Machine
end

