-- ==== Sys2Proof/Laws/Encoding.lean ====
section
/-! SUPPORT. The two bytes of an operation word. -/

namespace Sys2Proof

@[simp] theorem opcOf_opWord (o a : Byte) : opcOf (opWord o a) = o := by
  apply BitVec.eq_of_getLsbD_eq
  intro i hi
  change ((o ++ a : BitVec (8 + 8)).extractLsb' 8 8).getLsbD i = _
  rw [BitVec.getLsbD_extractLsb', BitVec.getLsbD_append]
  simp [hi]

@[simp] theorem argOf_opWord (o a : Byte) : argOf (opWord o a) = a := by
  apply BitVec.eq_of_getLsbD_eq
  intro i hi
  change ((o ++ a : BitVec (8 + 8)).extractLsb' 0 8).getLsbD i = _
  rw [BitVec.getLsbD_extractLsb', BitVec.getLsbD_append]
  simp [hi]

theorem opWord_opcOf_argOf (w : OpWord) : opWord (opcOf w) (argOf w) = w := by
  apply BitVec.eq_of_getLsbD_eq
  intro i hi
  change (w.extractLsb' 8 8 ++ w.extractLsb' 0 8 : BitVec (8 + 8)).getLsbD i = _
  rw [BitVec.getLsbD_append]
  by_cases h : i < 8
  · simp [h]
  · have : i - 8 < 8 := by omega
    simp [h, this, show 8 + (i - 8) = i by omega]

end Sys2Proof
end

