-- ==== Sys2Proof/Laws/Fields.lean ====
section
/-! SUPPORT. The bodies of the field writes as guarded writes of one byte, and GETTIME as nine reads. -/

namespace Sys2Proof.Machine

/-- A started operation is between frames. -/
theorem Started.between {i : Instr} {s : State} (h : Started i s) : Between s := ⟨h.2.2, h.2.1⟩

/-- The byte WRFIELD.HOUR writes (R208). -/
def hourWritten (raw v : Byte) : Byte := if bit raw 7 = 1 then enc12 (hour12Of v) (bit raw 5) else enc24 v

/-- The byte WRFIELD.MERIDIEM writes, if it writes one (R213). -/
def meridiemWritten (raw v : Byte) : Option Byte :=
  if bit raw 7 = 1 then some ((raw &&& ~~~(0x20 : Byte)) ||| ((v &&& 1) <<< 5)) else none

/-- The byte WRFIELD.HOURFORMAT writes, if it writes one (R214). -/
def formatWritten (raw v : Byte) : Option Byte := if bit raw 7 = v &&& 1 then none else some (convertHour raw)

/-- The guarded write of one register with everything it does; `b` is the byte written as a function of the byte read. -/
def WritesField (body : Prog OpResult → Prog OpResult) (s : State) (rc wc : Byte) (idx : Nat)
    (b : Byte → Option Byte) : Prop :=
  ∃ wp raw pe d,
    Runs body s (fieldWriteEvents s.params wp rc raw wc (b raw)) (padsAfterWrite (guardRestores s.params wp <<< 7)) pe d ∧
    GuardedWrite s idx raw (b raw) wp pe d

variable {s : State} (h : Between s) (v : Byte)
include h

theorem writeSecond_writes :
    WritesField (writeSecond s.params v) s 0x81 0x80 0 fun raw => some (merge raw (bcd v) 0x7F) :=
  fieldWrite_runs h 0x81 0x80 _ rfl (by decide) (by decide) rfl (by decide) (by decide) rfl (by decide) (by decide)

theorem writeMinute_writes :
    WritesField (writeMinute s.params v) s 0x83 0x82 1 fun raw => some (merge raw (bcd v) 0x7F) :=
  fieldWrite_runs h 0x83 0x82 _ rfl (by decide) (by decide) rfl (by decide) (by decide) rfl (by decide) (by decide)

theorem writeDate_writes :
    WritesField (writeDate s.params v) s 0x87 0x86 3 fun raw => some (merge raw (bcd v) 0x3F) :=
  fieldWrite_runs h 0x87 0x86 _ rfl (by decide) (by decide) rfl (by decide) (by decide) rfl (by decide) (by decide)

theorem writeMonth_writes :
    WritesField (writeMonth s.params v) s 0x89 0x88 4 fun raw => some (merge raw (bcd v) 0x1F) :=
  fieldWrite_runs h 0x89 0x88 _ rfl (by decide) (by decide) rfl (by decide) (by decide) rfl (by decide) (by decide)

theorem writeYear_writes :
    WritesField (writeYear s.params v) s 0x8D 0x8C 6 fun raw => some (merge raw (bcd v) 0xFF) :=
  fieldWrite_runs h 0x8D 0x8C _ rfl (by decide) (by decide) rfl (by decide) (by decide) rfl (by decide) (by decide)

theorem writeClockHalt_writes :
    WritesField (writeClockHalt s.params v) s 0x81 0x80 0 fun raw => some ((raw &&& 0x7F) ||| ((v &&& 1) <<< 7)) :=
  fieldWrite_runs h 0x81 0x80 _ rfl (by decide) (by decide) rfl (by decide) (by decide) rfl (by decide) (by decide)

theorem writeHour_writes :
    WritesField (writeHour s.params v) s 0x85 0x84 2 fun raw => some (hourWritten raw v) := by
  refine fieldWrite_runs h 0x85 0x84 _ ?_ (by decide) (by decide) rfl (by decide) (by decide) rfl (by decide) (by decide)
  funext k
  unfold writeHour hourWritten
  congr 1
  funext out
  congr 1
  funext raw
  split <;> rfl

theorem writeMeridiem_writes :
    WritesField (writeMeridiem s.params v) s 0x85 0x84 2 fun raw => meridiemWritten raw v := by
  refine fieldWrite_runs h 0x85 0x84 _ ?_ (by decide) (by decide) rfl (by decide) (by decide) rfl (by decide) (by decide)
  funext k
  unfold writeMeridiem meridiemWritten
  congr 1
  funext out
  congr 1
  funext raw
  split <;> rfl

theorem writeHourFormat_writes :
    WritesField (writeHourFormat s.params v) s 0x85 0x84 2 fun raw => formatWritten raw v := by
  refine fieldWrite_runs h 0x85 0x84 _ ?_ (by decide) (by decide) rfl (by decide) (by decide) rfl (by decide) (by decide)
  funext k
  unfold writeHourFormat formatWritten
  congr 1
  funext out
  congr 1
  funext raw
  split <;> rfl

/-- The same for the three fields that are written as given. -/
def WritesRaw (body : Prog OpResult → Prog OpResult) (s : State) (wc : Byte) (idx : Nat) (b : Byte) : Prop :=
  ∃ wp pe d,
    Runs body s (rawWriteEvents s.params wp wc b) (padsAfterWrite (guardRestores s.params wp <<< 7)) pe d ∧
    GuardedRawWrite s idx b wp pe d

theorem writeWeekday_writes : WritesRaw (writeWeekday s.params v) s 0x8A 5 v :=
  rawWrite_runs h 0x8A v rfl (by decide) (by decide) rfl (by decide)

theorem writeRawHour_writes : WritesRaw (writeRawHour s.params v) s 0x84 2 v :=
  rawWrite_runs h 0x84 v rfl (by decide) (by decide) rfl (by decide)

theorem writeTrickle_writes : WritesRaw (writeTrickle s.params v) s 0x90 8 v :=
  rawWrite_runs h 0x90 v rfl (by decide) (by decide) rfl (by decide)

end Sys2Proof.Machine
end

