-- ==== Sys2Proof/Laws/PerInstr.lean ====
section
/-! SUPPORT. The family `Encoded`: what holds of the encoding of each instruction, one lemma per constructor. -/

namespace Sys2Proof.Laws.Encoded

/-- A legal word by the test of R106, or a command byte of the map (R63, R150); both tests are written apart from the
decoder. -/
def legalEncoding : Encoding → Bool
  | .op16 w => !illegalWord (opcOf w) (argOf w)
  | .wireCmd8 c => listedCommand c

/-- The instruction is well formed and its encoding is legal. -/
def Statement (i : Instr) : Prop := WellFormed i = true ∧ legalEncoding (encode i) = true

theorem wrbits (b : Byte) : Statement (.wrbits b) := ⟨rfl, by revert b; decide +kernel⟩

theorem rdbits : Statement .rdbits := ⟨rfl, rfl⟩

theorem rdbyte (b : Byte) : Statement (.rdbyte b) := ⟨rfl, by revert b; decide +kernel⟩

theorem wrbyte (b : Byte) : Statement (.wrbyte b) := ⟨rfl, by revert b; decide +kernel⟩

theorem rdburstClock : Statement .rdburstClock := ⟨rfl, rfl⟩

theorem rdburstRam : Statement .rdburstRam := ⟨rfl, rfl⟩

theorem wrburstClock : Statement .wrburstClock := ⟨rfl, rfl⟩

theorem wrburstRam : Statement .wrburstRam := ⟨rfl, rfl⟩

theorem rdfieldSecond : Statement .rdfieldSecond := ⟨rfl, rfl⟩

theorem rdfieldMinute : Statement .rdfieldMinute := ⟨rfl, rfl⟩

theorem rdfieldHour : Statement .rdfieldHour := ⟨rfl, rfl⟩

theorem rdfieldDate : Statement .rdfieldDate := ⟨rfl, rfl⟩

theorem rdfieldMonth : Statement .rdfieldMonth := ⟨rfl, rfl⟩

theorem rdfieldWeekday : Statement .rdfieldWeekday := ⟨rfl, rfl⟩

theorem rdfieldYear : Statement .rdfieldYear := ⟨rfl, rfl⟩

theorem rdfieldMeridiem : Statement .rdfieldMeridiem := ⟨rfl, rfl⟩

theorem rdfieldHourFormat : Statement .rdfieldHourFormat := ⟨rfl, rfl⟩

theorem rdfieldClockHalt : Statement .rdfieldClockHalt := ⟨rfl, rfl⟩

theorem rdfieldWriteProtect : Statement .rdfieldWriteProtect := ⟨rfl, rfl⟩

theorem rdfieldRawHour : Statement .rdfieldRawHour := ⟨rfl, rfl⟩

theorem rdfieldTrickle : Statement .rdfieldTrickle := ⟨rfl, rfl⟩

theorem wrfieldSecond : Statement .wrfieldSecond := ⟨rfl, rfl⟩

theorem wrfieldMinute : Statement .wrfieldMinute := ⟨rfl, rfl⟩

theorem wrfieldHour : Statement .wrfieldHour := ⟨rfl, rfl⟩

theorem wrfieldDate : Statement .wrfieldDate := ⟨rfl, rfl⟩

theorem wrfieldMonth : Statement .wrfieldMonth := ⟨rfl, rfl⟩

theorem wrfieldWeekday : Statement .wrfieldWeekday := ⟨rfl, rfl⟩

theorem wrfieldYear : Statement .wrfieldYear := ⟨rfl, rfl⟩

theorem wrfieldMeridiem : Statement .wrfieldMeridiem := ⟨rfl, rfl⟩

theorem wrfieldHourFormat : Statement .wrfieldHourFormat := ⟨rfl, rfl⟩

theorem wrfieldClockHalt : Statement .wrfieldClockHalt := ⟨rfl, rfl⟩

theorem wrfieldWriteProtect : Statement .wrfieldWriteProtect := ⟨rfl, rfl⟩

theorem wrfieldRawHour : Statement .wrfieldRawHour := ⟨rfl, rfl⟩

theorem wrfieldTrickle : Statement .wrfieldTrickle := ⟨rfl, rfl⟩

theorem gettime : Statement .gettime := ⟨rfl, rfl⟩

theorem settime : Statement .settime := ⟨rfl, rfl⟩

theorem cmdRdSeconds : Statement .cmdRdSeconds := ⟨rfl, rfl⟩

theorem cmdWrSeconds : Statement .cmdWrSeconds := ⟨rfl, rfl⟩

theorem cmdRdMinutes : Statement .cmdRdMinutes := ⟨rfl, rfl⟩

theorem cmdWrMinutes : Statement .cmdWrMinutes := ⟨rfl, rfl⟩

theorem cmdRdHour : Statement .cmdRdHour := ⟨rfl, rfl⟩

theorem cmdWrHour : Statement .cmdWrHour := ⟨rfl, rfl⟩

theorem cmdRdDate : Statement .cmdRdDate := ⟨rfl, rfl⟩

theorem cmdWrDate : Statement .cmdWrDate := ⟨rfl, rfl⟩

theorem cmdRdMonth : Statement .cmdRdMonth := ⟨rfl, rfl⟩

theorem cmdWrMonth : Statement .cmdWrMonth := ⟨rfl, rfl⟩

theorem cmdRdWeekday : Statement .cmdRdWeekday := ⟨rfl, rfl⟩

theorem cmdWrWeekday : Statement .cmdWrWeekday := ⟨rfl, rfl⟩

theorem cmdRdYear : Statement .cmdRdYear := ⟨rfl, rfl⟩

theorem cmdWrYear : Statement .cmdWrYear := ⟨rfl, rfl⟩

theorem cmdRdWp : Statement .cmdRdWp := ⟨rfl, rfl⟩

theorem cmdWrWp : Statement .cmdWrWp := ⟨rfl, rfl⟩

theorem cmdRdTrickle : Statement .cmdRdTrickle := ⟨rfl, rfl⟩

theorem cmdWrTrickle : Statement .cmdWrTrickle := ⟨rfl, rfl⟩

theorem cmdRdClockBurst : Statement .cmdRdClockBurst := ⟨rfl, rfl⟩

theorem cmdWrClockBurst : Statement .cmdWrClockBurst := ⟨rfl, rfl⟩

end Sys2Proof.Laws.Encoded
end

