-- ==== Sys2Proof/Laws/Record.lean ====
section
/-! SUPPORT. SetSequence and GETTIME as a whole. -/

namespace Sys2Proof.Machine

/-- The reference peripheral after the first eight field writes of SetSequence; `w k` is the WP bit the k-th guard restores. -/
def AfterSet (w : Nat → Byte) (rp : RefPeripheral) (r : TimeRecord) (rp8 : RefPeripheral) : Prop :=
  ∃ rp1 rp2 rp3 rp4 rp5 rp6 rp7 : RefPeripheral,
    rp1 = rp.afterGuarded 2 (formatWritten (rp.reg 2) r.fmt) (w 0) ∧
    rp2 = rp1.afterGuarded 0 (some (merge (rp1.reg 0) (bcd r.sec) 0x7F)) (w 1) ∧
    rp3 = rp2.afterGuarded 1 (some (merge (rp2.reg 1) (bcd r.min) 0x7F)) (w 2) ∧
    rp4 = rp3.afterGuarded 2 (some (hourWritten (rp3.reg 2) r.hour)) (w 3) ∧
    rp5 = rp4.afterGuarded 3 (some (merge (rp4.reg 3) (bcd r.date) 0x3F)) (w 4) ∧
    rp6 = rp5.afterGuarded 4 (some (merge (rp5.reg 4) (bcd r.month) 0x1F)) (w 5) ∧
    rp7 = rp6.afterGuarded 6 (some (merge (rp6.reg 6) (bcd r.year) 0xFF)) (w 6) ∧
    rp8 = rp7.afterGuarded 5 (some r.wday) (w 7)

/-- SetSequence (R243): its events, and the reference peripheral after it. `wp k` and `raw k` are what the k-th field write
read. -/
theorem setSequence_runs {s : State} (hb : Between s) (r : TimeRecord) :
    ∃ (wp raw : Nat → Byte) (pe : Peripheral) (d : Nat),
      Runs (setSequence s.params r) s
       (fieldWriteEvents s.params (wp 0) 0x85 (raw 0) 0x84 (formatWritten (raw 0) r.fmt) ++
          fieldWriteEvents s.params (wp 1) 0x81 (raw 1) 0x80 (some (merge (raw 1) (bcd r.sec) 0x7F)) ++
          fieldWriteEvents s.params (wp 2) 0x83 (raw 2) 0x82 (some (merge (raw 2) (bcd r.min) 0x7F)) ++
          fieldWriteEvents s.params (wp 3) 0x85 (raw 3) 0x84 (some (hourWritten (raw 3) r.hour)) ++
          fieldWriteEvents s.params (wp 4) 0x87 (raw 4) 0x86 (some (merge (raw 4) (bcd r.date) 0x3F)) ++
          fieldWriteEvents s.params (wp 5) 0x89 (raw 5) 0x88 (some (merge (raw 5) (bcd r.month) 0x1F)) ++
          fieldWriteEvents s.params (wp 6) 0x8D (raw 6) 0x8C (some (merge (raw 6) (bcd r.year) 0xFF)) ++
          rawWriteEvents s.params (wp 7) 0x8A r.wday ++
          if r.fmt = 1 then fieldWriteEvents s.params (wp 8) 0x85 (raw 8) 0x84 (meridiemWritten (raw 8) r.mer) else [])
        (padsAfterWrite (guardRestores s.params (wp (if r.fmt = 1 then 8 else 7)) <<< 7)) pe d ∧
      (s.periph = .device → pe = .device) ∧
      ∀ rp, s.periph = .reference rp → ∃ (w : Nat → Byte) (rp8 : RefPeripheral),
        d = s.draws ∧ (s.params.wpRestore = .forceSet → ∀ k, w k = 1) ∧ AfterSet w rp r rp8 ∧
        pe = .reference (if r.fmt = 1 then rp8.afterGuarded 2 (meridiemWritten (rp8.reg 2) r.mer) (w 8) else rp8) := by
  obtain ⟨wp0, raw0, pe0, d0, ⟨b0, h0⟩, g0⟩ := writeHourFormat_writes hb r.fmt
  have hb1 := between_went hb (fieldWriteEvents s.params wp0 0x85 raw0 0x84 (formatWritten raw0 r.fmt)) b0 (padsAfterWrite (guardRestores s.params wp0 <<< 7)) pe0 d0
  obtain ⟨wp1, raw1, pe1, d1, ⟨b1, h1⟩, g1⟩ := writeSecond_writes hb1 r.sec
  have hb2 := between_went hb1 (fieldWriteEvents s.params wp1 0x81 raw1 0x80 (some (merge raw1 (bcd r.sec) 0x7F))) b1 (padsAfterWrite (guardRestores s.params wp1 <<< 7)) pe1 d1
  obtain ⟨wp2, raw2, pe2, d2, ⟨b2, h2⟩, g2⟩ := writeMinute_writes hb2 r.min
  have hb3 := between_went hb2 (fieldWriteEvents s.params wp2 0x83 raw2 0x82 (some (merge raw2 (bcd r.min) 0x7F))) b2 (padsAfterWrite (guardRestores s.params wp2 <<< 7)) pe2 d2
  obtain ⟨wp3, raw3, pe3, d3, ⟨b3, h3⟩, g3⟩ := writeHour_writes hb3 r.hour
  have hb4 := between_went hb3 (fieldWriteEvents s.params wp3 0x85 raw3 0x84 (some (hourWritten raw3 r.hour))) b3 (padsAfterWrite (guardRestores s.params wp3 <<< 7)) pe3 d3
  obtain ⟨wp4, raw4, pe4, d4, ⟨b4, h4⟩, g4⟩ := writeDate_writes hb4 r.date
  have hb5 := between_went hb4 (fieldWriteEvents s.params wp4 0x87 raw4 0x86 (some (merge raw4 (bcd r.date) 0x3F))) b4 (padsAfterWrite (guardRestores s.params wp4 <<< 7)) pe4 d4
  obtain ⟨wp5, raw5, pe5, d5, ⟨b5, h5⟩, g5⟩ := writeMonth_writes hb5 r.month
  have hb6 := between_went hb5 (fieldWriteEvents s.params wp5 0x89 raw5 0x88 (some (merge raw5 (bcd r.month) 0x1F))) b5 (padsAfterWrite (guardRestores s.params wp5 <<< 7)) pe5 d5
  obtain ⟨wp6, raw6, pe6, d6, ⟨b6, h6⟩, g6⟩ := writeYear_writes hb6 r.year
  have hb7 := between_went hb6 (fieldWriteEvents s.params wp6 0x8D raw6 0x8C (some (merge raw6 (bcd r.year) 0xFF))) b6 (padsAfterWrite (guardRestores s.params wp6 <<< 7)) pe6 d6
  obtain ⟨wp7, pe7, d7, ⟨b7, h7⟩, g7⟩ := writeWeekday_writes hb7 r.wday
  have hb8 := between_went hb7 (rawWriteEvents s.params wp7 0x8A r.wday) b7 (padsAfterWrite (guardRestores s.params wp7 <<< 7)) pe7 d7
  obtain ⟨wp8, raw8, pe8, d8, ⟨b8, h8⟩, g8⟩ := writeMeridiem_writes hb8 r.mer
  let raw : Nat → Byte := fun k => match k with | 0 => raw0 | 1 => raw1 | 2 => raw2 | 3 => raw3 | 4 => raw4 | 5 => raw5 | 6 => raw6 | _ => raw8
  let wp : Nat → Byte := fun k => match k with | 0 => wp0 | 1 => wp1 | 2 => wp2 | 3 => wp3 | 4 => wp4 | 5 => wp5 | 6 => wp6 | 7 => wp7 | _ => wp8
  have hd7 : s.periph = .device → pe7 = .device := fun hp => g7.1 (g6.1 (g5.1 (g4.1 (g3.1 (g2.1 (g1.1 (g0.1 hp)))))))
  by_cases hf : r.fmt = 1
  · refine ⟨wp, raw, pe8, d8, ⟨b0 ++ (b1 ++ (b2 ++ (b3 ++ (b4 ++ (b5 ++ (b6 ++ (b7 ++ b8))))))), fun k => ?_⟩, fun hp => g8.1 (hd7 hp), ?_⟩
    · rw [setSequence, h0]
      erw [h1, h2, h3, h4, h5, h6, h7]
      rw [if_pos hf]
      erw [h8]
      simp only [State.went_went, hf, if_true, List.append_assoc]
      rfl
    · intro rp hp
      obtain ⟨a0, a0', a0'', a0'''⟩ := g0.2 rp hp
      obtain ⟨a1, a1', a1'', a1'''⟩ := g1.2 _ a0''
      obtain ⟨a2, a2', a2'', a2'''⟩ := g2.2 _ a1''
      obtain ⟨a3, a3', a3'', a3'''⟩ := g3.2 _ a2''
      obtain ⟨a4, a4', a4'', a4'''⟩ := g4.2 _ a3''
      obtain ⟨a5, a5', a5'', a5'''⟩ := g5.2 _ a4''
      obtain ⟨a6, a6', a6'', a6'''⟩ := g6.2 _ a5''
      obtain ⟨a7', a7'', a7'''⟩ := g7.2 _ a6''
      obtain ⟨a8, a8', a8'', a8'''⟩ := g8.2 _ a7''
      refine ⟨fun k => guardRestores s.params (wp k), _, a8'''.trans (a7'''.trans (a6'''.trans (a5'''.trans (a4'''.trans (a3'''.trans (a2'''.trans (a1'''.trans a0'''))))))), fun h k => by simp [guardRestores, h], ⟨_, _, _, _, _, _, _, rfl, rfl, rfl, rfl, rfl, rfl, rfl, rfl⟩, ?_⟩
      rw [if_pos hf, a8'', a8, a6, a5, a4, a3, a2, a1, a0]
      rfl
  · refine ⟨wp, raw, pe7, d7, ⟨b0 ++ (b1 ++ (b2 ++ (b3 ++ (b4 ++ (b5 ++ (b6 ++ b7)))))), fun k => ?_⟩, hd7, ?_⟩
    · rw [setSequence, h0]
      erw [h1, h2, h3, h4, h5, h6, h7]
      rw [if_neg hf]
      simp only [State.went_went, hf, if_false, List.append_assoc, List.append_nil]
      rfl
    · intro rp hp
      obtain ⟨a0, a0', a0'', a0'''⟩ := g0.2 rp hp
      obtain ⟨a1, a1', a1'', a1'''⟩ := g1.2 _ a0''
      obtain ⟨a2, a2', a2'', a2'''⟩ := g2.2 _ a1''
      obtain ⟨a3, a3', a3'', a3'''⟩ := g3.2 _ a2''
      obtain ⟨a4, a4', a4'', a4'''⟩ := g4.2 _ a3''
      obtain ⟨a5, a5', a5'', a5'''⟩ := g5.2 _ a4''
      obtain ⟨a6, a6', a6'', a6'''⟩ := g6.2 _ a5''
      obtain ⟨a7', a7'', a7'''⟩ := g7.2 _ a6''
      refine ⟨fun k => guardRestores s.params (wp k), _, a7'''.trans (a6'''.trans (a5'''.trans (a4'''.trans (a3'''.trans (a2'''.trans (a1'''.trans a0''')))))), fun h k => by simp [guardRestores, h], ⟨_, _, _, _, _, _, _, rfl, rfl, rfl, rfl, rfl, rfl, rfl, rfl⟩, ?_⟩
      rw [if_neg hf, a7'', a6, a5, a4, a3, a2, a1, a0]
      rfl


/-- GETTIME (R241): nine reads in a row. -/
theorem getTimeRule_advance {s : State} (h : Between s) :
    ∃ (r : Nat → Byte) (pe : Peripheral) (d : Nat),
      (getTimeRule s.params).advance s =
        { s.ended
            (rdXferEvents s.params.samplePhase 0x81 (r 0) ++ rdXferEvents s.params.samplePhase 0x83 (r 1) ++
              rdXferEvents s.params.samplePhase 0x85 (r 2) ++ rdXferEvents s.params.samplePhase 0x87 (r 3) ++
              rdXferEvents s.params.samplePhase 0x89 (r 4) ++ rdXferEvents s.params.samplePhase 0x8D (r 5) ++
              rdXferEvents s.params.samplePhase 0x8B (r 6) ++ rdXferEvents s.params.samplePhase 0x85 (r 7) ++
              rdXferEvents s.params.samplePhase 0x85 (r 8))
            (padsAfterRead 0x85) pe d 0 with
          tr :=
            { sec := decodeSecond (r 0), min := decodeMinute (r 1), hour := decodeHour (r 2), date := decodeDate (r 3)
              month := decodeMonth (r 4), year := decodeYear (r 5), wday := decodeWeekday (r 6)
              fmt := decodeHourFormat (r 7), mer := decodeMeridiem (r 8) } } ∧
      (s.periph = .device → pe = .device ∧ ∀ k, k < 9 → r k = oracleByte (s.draws + 8 * k)) ∧
      ∀ rp, s.periph = .reference rp → pe = .reference rp ∧ d = s.draws ∧ r 0 = rp.reg 0 ∧ r 1 = rp.reg 1 ∧
        r 2 = rp.reg 2 ∧ r 3 = rp.reg 3 ∧ r 4 = rp.reg 4 ∧ r 5 = rp.reg 6 ∧ r 6 = rp.reg 5 ∧ r 7 = rp.reg 2 ∧
        r 8 = rp.reg 2 := by
  have reg : ∀ {t : State}, Between t → ∀ (c : Byte) {i : Nat}, cmdReads c = true → cmdSpace c = 2 → cmdIdx c = i →
      i ≤ 8 → _ := fun ht c i a b e f => rdXfer_register ht s.params.samplePhase c (i := i) a b e f
  obtain ⟨v0, p0, d0, ⟨b0, y0⟩, g0⟩ := reg h 0x81 (i := 0) (by decide) (by decide) (by decide) (by decide)
  have h1 := between_went h (rdXferEvents s.params.samplePhase 0x81 v0) b0 (padsAfterRead 0x81) p0 d0
  obtain ⟨v1, p1, d1, ⟨b1, y1⟩, g1⟩ := reg h1 0x83 (i := 1) (by decide) (by decide) (by decide) (by decide)
  have h2 := between_went h1 (rdXferEvents s.params.samplePhase 0x83 v1) b1 (padsAfterRead 0x83) p1 d1
  obtain ⟨v2, p2, d2, ⟨b2, y2⟩, g2⟩ := reg h2 0x85 (i := 2) (by decide) (by decide) (by decide) (by decide)
  have h3 := between_went h2 (rdXferEvents s.params.samplePhase 0x85 v2) b2 (padsAfterRead 0x85) p2 d2
  obtain ⟨v3, p3, d3, ⟨b3, y3⟩, g3⟩ := reg h3 0x87 (i := 3) (by decide) (by decide) (by decide) (by decide)
  have h4 := between_went h3 (rdXferEvents s.params.samplePhase 0x87 v3) b3 (padsAfterRead 0x87) p3 d3
  obtain ⟨v4, p4, d4, ⟨b4, y4⟩, g4⟩ := reg h4 0x89 (i := 4) (by decide) (by decide) (by decide) (by decide)
  have h5 := between_went h4 (rdXferEvents s.params.samplePhase 0x89 v4) b4 (padsAfterRead 0x89) p4 d4
  obtain ⟨v5, p5, d5, ⟨b5, y5⟩, g5⟩ := reg h5 0x8D (i := 6) (by decide) (by decide) (by decide) (by decide)
  have h6 := between_went h5 (rdXferEvents s.params.samplePhase 0x8D v5) b5 (padsAfterRead 0x8D) p5 d5
  obtain ⟨v6, p6, d6, ⟨b6, y6⟩, g6⟩ := reg h6 0x8B (i := 5) (by decide) (by decide) (by decide) (by decide)
  have h7 := between_went h6 (rdXferEvents s.params.samplePhase 0x8B v6) b6 (padsAfterRead 0x8B) p6 d6
  obtain ⟨v7, p7, d7, ⟨b7, y7⟩, g7⟩ := reg h7 0x85 (i := 2) (by decide) (by decide) (by decide) (by decide)
  have h8 := between_went h7 (rdXferEvents s.params.samplePhase 0x85 v7) b7 (padsAfterRead 0x85) p7 d7
  obtain ⟨v8, p8, d8, ⟨b8, y8⟩, g8⟩ := reg h8 0x85 (i := 2) (by decide) (by decide) (by decide) (by decide)
  refine ⟨fun k => match k with
    | 0 => v0
    | 1 => v1
    | 2 => v2
    | 3 => v3
    | 4 => v4
    | 5 => v5
    | 6 => v6
    | 7 => v7
    | _ => v8, p8, d8, ?_, ?_, ?_⟩
  · rw [getTimeRule, y0, y1, y2, y3, y4, y5, y6, y7, y8]
    simp only [State.went_went]
    rw [advance_ret (by simpa using h.1), went_finish h]
    simp only [List.append_assoc]
    rfl
  · intro hp
    obtain ⟨a0, e0, f0⟩ := g0.1 hp
    obtain ⟨a1, e1, f1⟩ := g1.1 e0
    obtain ⟨a2, e2, f2⟩ := g2.1 e1
    obtain ⟨a3, e3, f3⟩ := g3.1 e2
    obtain ⟨a4, e4, f4⟩ := g4.1 e3
    obtain ⟨a5, e5, f5⟩ := g5.1 e4
    obtain ⟨a6, e6, f6⟩ := g6.1 e5
    obtain ⟨a7, e7, f7⟩ := g7.1 e6
    obtain ⟨a8, e8, f8⟩ := g8.1 e7
    simp only [State.went_draws] at a1 a2 a3 a4 a5 a6 a7 a8 f1 f2 f3 f4 f5 f6 f7
    refine ⟨e8, fun k hk => ?_⟩
    interval_cases k <;> simp [a0, a1, a2, a3, a4, a5, a6, a7, a8, f0, f1, f2, f3, f4, f5, f6, f7, Nat.add_assoc]
  · intro rp hp
    obtain ⟨a0, e0, f0⟩ := g0.2 rp hp
    obtain ⟨a1, e1, f1⟩ := g1.2 _ e0
    obtain ⟨a2, e2, f2⟩ := g2.2 _ e1
    obtain ⟨a3, e3, f3⟩ := g3.2 _ e2
    obtain ⟨a4, e4, f4⟩ := g4.2 _ e3
    obtain ⟨a5, e5, f5⟩ := g5.2 _ e4
    obtain ⟨a6, e6, f6⟩ := g6.2 _ e5
    obtain ⟨a7, e7, f7⟩ := g7.2 _ e6
    obtain ⟨a8, e8, f8⟩ := g8.2 _ e7
    exact ⟨e8, f8.trans (f7.trans (f6.trans (f5.trans (f4.trans (f3.trans (f2.trans (f1.trans f0))))))), a0, a1, a2, a3,
      a4, a5, a6, a7, a8⟩

end Sys2Proof.Machine
end

