-- ==== Sys2Proof/Laws/Rules.lean ====
section
/-! SUPPORT. What every rule of an operation keeps to: it never drives CE high but by opening a frame, it never makes CE or
CLK an input (10_state.md R23), and it ends as its instruction may end (R30 to R32). -/

namespace Sys2Proof.Machine

/-- The rule keeps CE and CLK outputs, drives CE high only by opening a frame, and ends with a result in `Q`. -/
def Prog.Keeps {α : Type} (Q : α → Prop) : Prog α → Prop
  | .ret a => Q a
  | .setDir l d k => (l = .dio ∨ d = .output) ∧ k.Keeps Q
  | .setLevel l v k => (l ≠ .ce ∨ v = false) ∧ k.Keeps Q
  | .openFrame _ _ k => k.Keeps Q
  | .delay _ k => k.Keeps Q
  | .sample k => ∀ b, (k b).Keeps Q

variable {α : Type} {Q : α → Prop}

theorem keeps_shiftOutBits (b : Byte) (n : Nat) : ∀ (i : Nat) {k : Prog α}, k.Keeps Q → (shiftOutBits b i n k).Keeps Q := by
  induction n with
  | zero => exact fun _ _ h => h
  | succ n ih => exact fun i _ h => ⟨.inl nofun, .inl nofun, .inl nofun, ih (i + 1) h⟩

theorem keeps_shiftOut (b : Byte) {k : Prog α} (h : k.Keeps Q) : (shiftOut b k).Keeps Q := keeps_shiftOutBits b 8 0 h

theorem keeps_shiftInBits (ph : SamplePhase) (n : Nat) :
    ∀ (i : Nat) (v : Byte) {k : Byte → Prog α}, (∀ v, (k v).Keeps Q) → (shiftInBits ph i v n k).Keeps Q := by
  induction n with
  | zero => exact fun _ v _ h => h v
  | succ n ih =>
    intro i v k h
    cases ph
    · exact ⟨.inl nofun, .inl nofun, fun b => ih _ _ h⟩
    · exact fun b => ⟨.inl nofun, .inl nofun, ih _ _ h⟩

theorem keeps_shiftIn (ph : SamplePhase) {k : Byte → Prog α} (h : ∀ v, (k v).Keeps Q) : (shiftIn ph k).Keeps Q :=
  keeps_shiftInBits ph 8 0 0 h

theorem keeps_shiftInBytes (ph : SamplePhase) (n : Nat) :
    ∀ {k : List Byte → Prog α}, (∀ vs, vs.length = n → (k vs).Keeps Q) → (shiftInBytes ph n k).Keeps Q := by
  induction n with
  | zero => exact fun h => h [] rfl
  | succ n ih => exact fun h => keeps_shiftIn ph fun v => ih fun vs hl => h (v :: vs) (congrArg Nat.succ hl)

theorem keeps_shiftOutBytes (bs : List Byte) {k : Prog α} (h : k.Keeps Q) : (shiftOutBytes bs k).Keeps Q := by
  induction bs with
  | nil => exact h
  | cons b bs ih => exact keeps_shiftOut b ih

theorem keeps_lineInit {k : Prog α} (h : k.Keeps Q) : (lineInit k).Keeps Q :=
  ⟨.inr rfl, .inr rfl, .inr rfl, .inr rfl, .inr rfl, .inl nofun, h⟩

theorem keeps_rdXfer (ph : SamplePhase) (c : Byte) {k : Byte → Prog α} (h : ∀ v, (k v).Keeps Q) :
    (rdXfer ph c k).Keeps Q :=
  keeps_lineInit (keeps_shiftOut c ⟨.inl rfl, keeps_shiftIn ph fun v => ⟨.inr rfl, h v⟩⟩)

theorem keeps_wrXfer (c d : Byte) {k : Prog α} (h : k.Keeps Q) : (wrXfer c d k).Keeps Q :=
  keeps_lineInit (keeps_shiftOut c (keeps_shiftOut d ⟨.inr rfl, h⟩))

theorem keeps_burstRdXfer (ph : SamplePhase) (c : Byte) (n : Nat) {k : List Byte → Prog α}
    (h : ∀ vs, vs.length = n → (k vs).Keeps Q) : (burstRdXfer ph c n k).Keeps Q :=
  keeps_lineInit (keeps_shiftOut c ⟨.inl rfl, keeps_shiftInBytes ph n fun vs hl => ⟨.inr rfl, h vs hl⟩⟩)

theorem keeps_burstWrFrame (c : Byte) (ds : List Byte) {k : Prog α} (h : k.Keeps Q) : (burstWrFrame c ds k).Keeps Q :=
  keeps_lineInit (keeps_shiftOut c (keeps_shiftOutBytes ds ⟨.inr rfl, h⟩))

theorem keeps_guarded (P : Params) {inner : Prog α → Prog α} (hi : ∀ {k : Prog α}, k.Keeps Q → (inner k).Keeps Q)
    {k : Prog α} (h : k.Keeps Q) : (guarded P inner k).Keeps Q := by
  unfold guarded
  split
  · exact keeps_wrXfer _ _ (hi (keeps_wrXfer _ _ h))
  · exact keeps_rdXfer _ _ fun wp => keeps_wrXfer _ _ (hi (keeps_wrXfer _ _ h))

theorem keeps_mergeField (P : Params) (rc wc mask v : Byte) {k : Prog α} (h : k.Keeps Q) :
    (mergeField P rc wc mask v k).Keeps Q :=
  keeps_guarded P (fun h => keeps_rdXfer _ _ fun _ => keeps_wrXfer _ _ h) h

theorem keeps_writeHour (P : Params) (v : Byte) {k : Prog α} (h : k.Keeps Q) : (writeHour P v k).Keeps Q :=
  keeps_guarded P (fun h => keeps_rdXfer _ _ fun _ => by split <;> exact keeps_wrXfer _ _ h) h

theorem keeps_writeWeekday (P : Params) (v : Byte) {k : Prog α} (h : k.Keeps Q) : (writeWeekday P v k).Keeps Q :=
  keeps_guarded P (fun h => keeps_wrXfer _ _ h) h

theorem keeps_writeMeridiem (P : Params) (v : Byte) {k : Prog α} (h : k.Keeps Q) : (writeMeridiem P v k).Keeps Q :=
  keeps_guarded P (fun h => keeps_rdXfer _ _ fun _ => by split <;> first | exact keeps_wrXfer _ _ h | exact h) h

theorem keeps_writeHourFormat (P : Params) (v : Byte) {k : Prog α} (h : k.Keeps Q) : (writeHourFormat P v k).Keeps Q :=
  keeps_guarded P (fun h => keeps_rdXfer _ _ fun _ => by split <;> first | exact keeps_wrXfer _ _ h | exact h) h

theorem keeps_writeClockHalt (P : Params) (v : Byte) {k : Prog α} (h : k.Keeps Q) : (writeClockHalt P v k).Keeps Q :=
  keeps_guarded P (fun h => keeps_rdXfer _ _ fun _ => keeps_wrXfer _ _ h) h

theorem keeps_setSequence {Q : OpResult → Prop} (P : Params) (r : TimeRecord) {k : Prog OpResult} (h : k.Keeps Q) :
    (setSequence P r k).Keeps Q := by
  unfold setSequence
  apply keeps_writeHourFormat
  iterate 2 apply keeps_mergeField
  apply keeps_writeHour
  iterate 3 apply keeps_mergeField
  apply keeps_writeWeekday
  split
  · exact keeps_writeMeridiem P _ h
  · exact h

theorem keeps_getTimeRule {Q : OpResult → Prop} (P : Params) (h : ∀ r, Q (.record r)) : (getTimeRule P).Keeps Q := by
  unfold getTimeRule
  iterate 9 refine keeps_rdXfer _ _ fun _ => ?_
  exact h _

/-- Which results an operation may end with (R30 to R32, R260). -/
def mayEnd : Instr → OpResult → Prop
  | .rdbits, r | .rdbyte _, r => ∃ v, r = .value v
  | .rdburstClock, r => ∃ bs, bs.length = Config.nClockBlock ∧ r = .bytes bs
  | .rdburstRam, r => ∃ bs, bs.length = Config.nRamBlock ∧ r = .bytes bs
  | .rdfieldSecond, r | .rdfieldMinute, r | .rdfieldHour, r | .rdfieldDate, r | .rdfieldMonth, r
  | .rdfieldWeekday, r | .rdfieldYear, r | .rdfieldMeridiem, r | .rdfieldHourFormat, r | .rdfieldClockHalt, r
  | .rdfieldWriteProtect, r | .rdfieldRawHour, r | .rdfieldTrickle, r => ∃ v, r = .value v
  | .gettime, r => ∃ t, r = .record t
  | .settime, r => r = .done ∨ ∃ t, r = .failed (validate t)
  | _, r => r = .done

theorem runs_rule {Q : OpResult → Prop} (rule : Params → Snapshot → Prog OpResult) (h : ∀ P S, (rule P S).Keeps Q) :
    ∃ r : Params → Snapshot → Prog OpResult, (∀ s : State, s.operate rule = s.operate r) ∧ ∀ P S, (r P S).Keeps Q :=
  ⟨rule, fun _ => rfl, h⟩

/-- Every instruction either runs a rule that keeps to this, or is a command byte the peripheral takes. -/
theorem exec_cases (i : Instr) :
    (∃ rule : Params → Snapshot → Prog OpResult, (∀ s, exec i s = s.operate rule) ∧
      ∀ P S, (rule P S).Keeps (mayEnd i)) ∨
    ∃ c, encode i = .wireCmd8 c ∧ ∀ s, exec i s = .next (s.takeCommand c) := by
  cases i with
  | wrbits b =>
    simp only [exec, execWrbits]
    exact .inl (runs_rule _ (by intro P S; exact keeps_shiftOut _ rfl))
  | rdbits =>
    simp only [exec, execRdbits]
    exact .inl (runs_rule _ (by intro P S; exact keeps_shiftIn _ fun v => ⟨v, rfl⟩))
  | rdbyte c =>
    simp only [exec, execRdbyte]
    exact .inl (runs_rule _ (by intro P S; exact keeps_rdXfer _ _ fun v => ⟨v, rfl⟩))
  | wrbyte c =>
    simp only [exec, execWrbyte]
    exact .inl (runs_rule _ (by intro P S; exact keeps_wrXfer _ _ rfl))
  | rdburstClock =>
    simp only [exec, execRdburstClock]
    exact .inl (runs_rule _ (by intro P S; exact keeps_burstRdXfer _ _ _ fun vs hl => ⟨vs, hl, rfl⟩))
  | rdburstRam =>
    simp only [exec, execRdburstRam]
    exact .inl (runs_rule _ (by intro P S; exact keeps_burstRdXfer _ _ _ fun vs hl => ⟨vs, hl, rfl⟩))
  | wrburstClock =>
    simp only [exec, execWrburstClock]
    exact .inl (runs_rule _ (by intro P S; exact keeps_guarded P (fun h => keeps_burstWrFrame _ _ h) rfl))
  | wrburstRam =>
    simp only [exec, execWrburstRam]
    exact .inl (runs_rule _ (by intro P S; exact keeps_guarded P (fun h => keeps_burstWrFrame _ _ h) rfl))
  | rdfieldSecond =>
    simp only [exec, execRdfieldSecond]
    exact .inl (runs_rule _ (by intro P S; exact keeps_rdXfer _ _ fun v => ⟨_, rfl⟩))
  | rdfieldMinute =>
    simp only [exec, execRdfieldMinute]
    exact .inl (runs_rule _ (by intro P S; exact keeps_rdXfer _ _ fun v => ⟨_, rfl⟩))
  | rdfieldHour =>
    simp only [exec, execRdfieldHour]
    exact .inl (runs_rule _ (by intro P S; exact keeps_rdXfer _ _ fun v => ⟨_, rfl⟩))
  | rdfieldDate =>
    simp only [exec, execRdfieldDate]
    exact .inl (runs_rule _ (by intro P S; exact keeps_rdXfer _ _ fun v => ⟨_, rfl⟩))
  | rdfieldMonth =>
    simp only [exec, execRdfieldMonth]
    exact .inl (runs_rule _ (by intro P S; exact keeps_rdXfer _ _ fun v => ⟨_, rfl⟩))
  | rdfieldWeekday =>
    simp only [exec, execRdfieldWeekday]
    exact .inl (runs_rule _ (by intro P S; exact keeps_rdXfer _ _ fun v => ⟨_, rfl⟩))
  | rdfieldYear =>
    simp only [exec, execRdfieldYear]
    exact .inl (runs_rule _ (by intro P S; exact keeps_rdXfer _ _ fun v => ⟨_, rfl⟩))
  | rdfieldMeridiem =>
    simp only [exec, execRdfieldMeridiem]
    exact .inl (runs_rule _ (by intro P S; exact keeps_rdXfer _ _ fun v => ⟨_, rfl⟩))
  | rdfieldHourFormat =>
    simp only [exec, execRdfieldHourFormat]
    exact .inl (runs_rule _ (by intro P S; exact keeps_rdXfer _ _ fun v => ⟨_, rfl⟩))
  | rdfieldClockHalt =>
    simp only [exec, execRdfieldClockHalt]
    exact .inl (runs_rule _ (by intro P S; exact keeps_rdXfer _ _ fun v => ⟨_, rfl⟩))
  | rdfieldWriteProtect =>
    simp only [exec, execRdfieldWriteProtect]
    exact .inl (runs_rule _ (by intro P S; exact keeps_rdXfer _ _ fun v => ⟨_, rfl⟩))
  | rdfieldRawHour =>
    simp only [exec, execRdfieldRawHour]
    exact .inl (runs_rule _ (by intro P S; exact keeps_rdXfer _ _ fun v => ⟨_, rfl⟩))
  | rdfieldTrickle =>
    simp only [exec, execRdfieldTrickle]
    exact .inl (runs_rule _ (by intro P S; exact keeps_rdXfer _ _ fun v => ⟨_, rfl⟩))
  | wrfieldSecond =>
    simp only [exec, execWrfieldSecond]
    exact .inl (runs_rule _ (by intro P S; exact keeps_mergeField P _ _ _ _ rfl))
  | wrfieldMinute =>
    simp only [exec, execWrfieldMinute]
    exact .inl (runs_rule _ (by intro P S; exact keeps_mergeField P _ _ _ _ rfl))
  | wrfieldHour =>
    simp only [exec, execWrfieldHour]
    exact .inl (runs_rule _ (by intro P S; exact keeps_writeHour P _ rfl))
  | wrfieldDate =>
    simp only [exec, execWrfieldDate]
    exact .inl (runs_rule _ (by intro P S; exact keeps_mergeField P _ _ _ _ rfl))
  | wrfieldMonth =>
    simp only [exec, execWrfieldMonth]
    exact .inl (runs_rule _ (by intro P S; exact keeps_mergeField P _ _ _ _ rfl))
  | wrfieldWeekday =>
    simp only [exec, execWrfieldWeekday]
    exact .inl (runs_rule _ (by intro P S; exact keeps_guarded P (fun h => keeps_wrXfer _ _ h) rfl))
  | wrfieldYear =>
    simp only [exec, execWrfieldYear]
    exact .inl (runs_rule _ (by intro P S; exact keeps_mergeField P _ _ _ _ rfl))
  | wrfieldMeridiem =>
    simp only [exec, execWrfieldMeridiem]
    exact .inl (runs_rule _ (by intro P S; exact keeps_writeMeridiem P _ rfl))
  | wrfieldHourFormat =>
    simp only [exec, execWrfieldHourFormat]
    exact .inl (runs_rule _ (by intro P S; exact keeps_writeHourFormat P _ rfl))
  | wrfieldClockHalt =>
    simp only [exec, execWrfieldClockHalt]
    exact .inl (runs_rule _ (by intro P S; exact keeps_writeClockHalt P _ rfl))
  | wrfieldWriteProtect =>
    simp only [exec, execWrfieldWriteProtect]
    exact .inl (runs_rule _ (by intro P S; exact keeps_wrXfer _ _ rfl))
  | wrfieldRawHour =>
    simp only [exec, execWrfieldRawHour]
    exact .inl (runs_rule _ (by intro P S; exact keeps_guarded P (fun h => keeps_wrXfer _ _ h) rfl))
  | wrfieldTrickle =>
    simp only [exec, execWrfieldTrickle]
    exact .inl (runs_rule _ (by intro P S; exact keeps_guarded P (fun h => keeps_wrXfer _ _ h) rfl))
  | gettime =>
    simp only [exec, execGettime]
    exact .inl (runs_rule _ (by intro P S; exact keeps_getTimeRule P fun r => ⟨r, rfl⟩))
  | settime =>
    simp only [exec, execSettime]
    exact .inl (runs_rule _ (by
      intro P S
      unfold setTimeRule
      split
      · exact keeps_setSequence P _ (.inl rfl)
      · exact .inr ⟨_, rfl⟩))
  | cmdRdSeconds | cmdWrSeconds | cmdRdMinutes | cmdWrMinutes | cmdRdHour | cmdWrHour | cmdRdDate | cmdWrDate
  | cmdRdMonth | cmdWrMonth | cmdRdWeekday | cmdWrWeekday | cmdRdYear | cmdWrYear | cmdRdWp | cmdWrWp | cmdRdTrickle
  | cmdWrTrickle | cmdRdClockBurst | cmdWrClockBurst => exact .inr ⟨_, rfl, fun _ => rfl⟩

/-- The rest of a rule keeps to what the rule keeps to. -/
theorem keeps_resume (n : Nat) : ∀ (p : Prog α) (bs : List Level), p.Keeps Q → (p.resume n bs).Keeps Q := by
  induction n with
  | zero => intro p bs h; cases p <;> exact h
  | succ n ih =>
    intro p bs h
    cases p with
    | ret a => exact h
    | setDir l d k => exact ih k bs h.2
    | setLevel l v k => exact ih k bs h.2
    | openFrame c kind k => exact ih k bs h
    | delay t k => exact ih k bs h
    | sample k =>
      cases bs with
      | nil => exact h
      | cons b bs => exact ih (k b) bs (h b)

/-- An operation runs what is left of its rule. -/
theorem operate_cases {rule : Params → Snapshot → Prog OpResult} {Q : OpResult → Prop}
    (h : ∀ P S, (rule P S).Keeps Q) (s : State) : ∃ p : Prog OpResult, p.Keeps Q ∧ s.operate rule = .next (p.advance s) := by
  unfold State.operate
  cases hq : s.seq with
  | none => exact ⟨_, h _ _, rfl⟩
  | some q => exact ⟨_, keeps_resume _ _ _ (h _ _), rfl⟩

/-- A property of states that the primitives of a rule and its completion keep, every operation keeps. -/
theorem advance_induct {Q : OpResult → Prop} {I : State → Prop}
    (hdir : ∀ s l d, (l = .dio ∨ d = .output) → I s → I (s.setDir l d))
    (hlvl : ∀ s l v, (l ≠ .ce ∨ v = false) → I s → I (s.setLevel l v))
    (hopen : ∀ s c kind, I s → I (s.openFrame c kind))
    (hwait : ∀ s n, I s → I (s.wait n))
    (hsamp : ∀ s b, I s → I (s.settle.sampled b))
    (hend : ∀ s r, Q r → I s → I (s.complete r)) :
    ∀ (p : Prog OpResult) (s : State), p.Keeps Q → I s → I (p.advance s) := by
  intro p
  induction p with
  | ret a =>
    intro s h hs
    have hl := hlvl s .dio false (.inl nofun) hs
    simp only [Prog.advance, State.finish]
    split
    · exact hs
    · split
      · split <;> [exact hl; exact hend _ a h hl]
      · exact hend s a h hs
  | setDir l d k ih => intro s h hs; simp only [Prog.advance]; split <;> [exact hs; exact ih _ h.2 (hdir s l d h.1 hs)]
  | setLevel l v k ih => intro s h hs; simp only [Prog.advance]; split <;> [exact hs; exact ih _ h.2 (hlvl s l v h.1 hs)]
  | openFrame c kind k ih => intro s h hs; simp only [Prog.advance]; split <;> [exact hs; exact ih _ h (hopen s c kind hs)]
  | delay n k ih => intro s h hs; simp only [Prog.advance]; split <;> [exact hs; exact ih _ h (hwait s n hs)]
  | sample k ih => intro s h hs; simp only [Prog.advance]; split <;> [exact hs; exact ih _ _ (h _) (hsamp s _ hs)]

end Sys2Proof.Machine
end

