-- ==== Sys2Proof/Tests/Slice0.lean ====
section
/-! SUPPORT. Tests: words written out from the encodings of the spec, the spec's worked examples, and for every statement
that has hypotheses a witness that meets them. The expected results stand in the rules named. -/

namespace Sys2Proof.Tests

open Sys2Proof.Machine

/-! ### Helpers -/

/-- A view of the next state, if there is one. -/
def after {α : Type} (o : Host.Outcome State Fault Refusal) (f : State → α) : Option α :=
  match o with
  | .next s => some (f s)
  | _ => none

/-- The reference peripheral whose clock registers are those of the example of R153. -/
def sampleRp : RefPeripheral :=
  { rpc := #v[0x00, 0x30, 0x15, 0x01, 0x01, 0x02, 0x24, 0x80, 0x00], rpr := Vector.replicate 31 0x5A, strayRead := .ignored }

/-- Reset with the reference peripheral on the wires. -/
def onWires (rp : RefPeripheral) : State := { State.reset with periph := .reference rp }

/-- An operation word started with DATA = d on the reference peripheral, clock register `i` holding `v`. -/
def run (w : Nat) (d : Byte) (i : Nat) (v : Byte) : State :=
  State.withFetchWord { onWires (sampleRp.setReg i v) with data := d } 16 w

/-- RPC[i], if the reference peripheral is on the wires. -/
def regOf (i : Nat) (s : State) : Option Byte :=
  match s.periph with
  | .reference rp => some (rp.reg i)
  | .device => none

/-- An operation word started right after reset, with the device. -/
def started (w : Nat) : State := State.reset.withFetchWord 16 w

/-- `s` with one host act to come. -/
def hostDoes (s : State) (act : HostAct) : State := { s with inputs := [⟨.whenIdle, act⟩] }

/-- `s` with an open frame whose command byte and data the peripheral has just received. -/
def framed (s : State) (c : Byte) (kind : FrameKind) : State :=
  { s with frame := some { cmd := c, kind := kind, rises := 8 * kind.bytesOut, sampled := 0, resp := [], turn := true } }

/-- The levels driven on DIO by a list of events. -/
def dioLevels (es : List LineEvent) : List Level :=
  es.filterMap fun e =>
    match e with
    | .setLevel .dio v => some v
    | _ => none

/-- The record of the example of R244, with 3 PM in 12 h format. -/
def record12 : TimeRecord :=
  { sec := 0, min := 30, hour := 3, date := 1, month := 1, year := 24, wday := 2, fmt := 1, mer := 1 }

/-- The record of the source's scenario (R246), 15:30:00 in 24 h format, TR_MER unset. -/
def record24 : TimeRecord := { record12 with hour := 15, fmt := 0, mer := 0xFF }

/-- SETTIME started with a record on the reference peripheral. -/
def setting (r : TimeRecord) : State := State.withFetchWord { onWires sampleRp with tr := r } 16 0x0A00

/-! ### Which words are legal (R106) -/

theorem test_illegal_opcode_zero : illegalWord 0x00 0x00 = true := by decide

theorem test_illegal_opcode_above : illegalWord 0x0B 0x00 = true ∧ illegalWord 0x0A 0xFF = false := by decide

theorem test_illegal_block : illegalWord 0x05 2 = true ∧ illegalWord 0x06 2 = true ∧ illegalWord 0x06 1 = false := by
  decide

theorem test_illegal_field :
    illegalWord 0x07 13 = true ∧ illegalWord 0x08 13 = true ∧ illegalWord 0x08 12 = false := by
  decide

theorem test_unlisted_commands :
    listedCommand 0x7F = false ∧ listedCommand 0x92 = false ∧ listedCommand 0xBD = false ∧
      listedCommand 0xC0 = false := by
  decide

theorem test_wellFormed : WellFormed (.wrbits 0xFF) = true := by decide

/-! ### Words written out from R102 to R104, command bytes from R63 and R150 -/

theorem test_words_transport :
    decodeWord 0b0000000110100101 = .ok (.wrbits 0xA5) ∧
    decodeWord 0b0000001011111111 = .ok .rdbits ∧
    decodeWord 0b0000001110000011 = .ok (.rdbyte 0x83) ∧
    decodeWord 0b0000010010000010 = .ok (.wrbyte 0x82) ∧
    decodeWord 0b0000010100000000 = .ok .rdburstClock ∧
    decodeWord 0b0000010100000001 = .ok .rdburstRam ∧
    decodeWord 0b0000011000000000 = .ok .wrburstClock ∧
    decodeWord 0b0000011000000001 = .ok .wrburstRam := by
  decide

theorem test_words_rdfield :
    decodeWord 0b0000011100000000 = .ok .rdfieldSecond ∧
    decodeWord 0b0000011100000001 = .ok .rdfieldMinute ∧
    decodeWord 0b0000011100000010 = .ok .rdfieldHour ∧
    decodeWord 0b0000011100000011 = .ok .rdfieldDate ∧
    decodeWord 0b0000011100000100 = .ok .rdfieldMonth ∧
    decodeWord 0b0000011100000101 = .ok .rdfieldWeekday ∧
    decodeWord 0b0000011100000110 = .ok .rdfieldYear ∧
    decodeWord 0b0000011100000111 = .ok .rdfieldMeridiem ∧
    decodeWord 0b0000011100001000 = .ok .rdfieldHourFormat ∧
    decodeWord 0b0000011100001001 = .ok .rdfieldClockHalt ∧
    decodeWord 0b0000011100001010 = .ok .rdfieldWriteProtect ∧
    decodeWord 0b0000011100001011 = .ok .rdfieldRawHour ∧
    decodeWord 0b0000011100001100 = .ok .rdfieldTrickle := by
  decide

theorem test_words_wrfield :
    decodeWord 0b0000100000000000 = .ok .wrfieldSecond ∧
    decodeWord 0b0000100000000001 = .ok .wrfieldMinute ∧
    decodeWord 0b0000100000000010 = .ok .wrfieldHour ∧
    decodeWord 0b0000100000000011 = .ok .wrfieldDate ∧
    decodeWord 0b0000100000000100 = .ok .wrfieldMonth ∧
    decodeWord 0b0000100000000101 = .ok .wrfieldWeekday ∧
    decodeWord 0b0000100000000110 = .ok .wrfieldYear ∧
    decodeWord 0b0000100000000111 = .ok .wrfieldMeridiem ∧
    decodeWord 0b0000100000001000 = .ok .wrfieldHourFormat ∧
    decodeWord 0b0000100000001001 = .ok .wrfieldClockHalt ∧
    decodeWord 0b0000100000001010 = .ok .wrfieldWriteProtect ∧
    decodeWord 0b0000100000001011 = .ok .wrfieldRawHour ∧
    decodeWord 0b0000100000001100 = .ok .wrfieldTrickle := by
  decide

theorem test_words_timerecord :
    decodeWord 0b0000100100000000 = .ok .gettime ∧
    decodeWord 0b0000101011111111 = .ok .settime := by
  decide

theorem test_bytes_read :
    decodeCommand 0b10000001 = .ok .cmdRdSeconds ∧
    decodeCommand 0b10000011 = .ok .cmdRdMinutes ∧
    decodeCommand 0b10000101 = .ok .cmdRdHour ∧
    decodeCommand 0b10000111 = .ok .cmdRdDate ∧
    decodeCommand 0b10001001 = .ok .cmdRdMonth ∧
    decodeCommand 0b10001011 = .ok .cmdRdWeekday ∧
    decodeCommand 0b10001101 = .ok .cmdRdYear ∧
    decodeCommand 0b10001111 = .ok .cmdRdWp ∧
    decodeCommand 0b10010001 = .ok .cmdRdTrickle ∧
    decodeCommand 0b10111111 = .ok .cmdRdClockBurst := by
  decide

theorem test_bytes_write :
    decodeCommand 0b10000000 = .ok .cmdWrSeconds ∧
    decodeCommand 0b10000010 = .ok .cmdWrMinutes ∧
    decodeCommand 0b10000100 = .ok .cmdWrHour ∧
    decodeCommand 0b10000110 = .ok .cmdWrDate ∧
    decodeCommand 0b10001000 = .ok .cmdWrMonth ∧
    decodeCommand 0b10001010 = .ok .cmdWrWeekday ∧
    decodeCommand 0b10001100 = .ok .cmdWrYear ∧
    decodeCommand 0b10001110 = .ok .cmdWrWp ∧
    decodeCommand 0b10010000 = .ok .cmdWrTrickle ∧
    decodeCommand 0b10111110 = .ok .cmdWrClockBurst := by
  decide

theorem test_words_rejected :
    decodeWord 0x0000 = .error .illegalOpcode ∧ decodeWord 0x0B00 = .error .illegalOpcode ∧
    decodeWord 0x0502 = .error .illegalBlock ∧ decodeWord 0x06FF = .error .illegalBlock ∧
    decodeWord 0x070D = .error .illegalField ∧ decodeWord 0x08FF = .error .illegalField ∧
    decodeCommand 0x92 = .error .unlistedCommand := by
  decide

/-! ### The spec's examples, one step each -/

/-- R132: WRBITS #0xA5 drives 1,0,1,0,0,1,0,1. -/
theorem test_wrbits_levels :
    after (exec (.wrbits 0xA5) (started 0x01A5)) (fun t => dioLevels t.trace) =
      some [true, false, true, false, false, true, false, true] := by
  decide

/-- R275, log entry 22: where DIO rests low it goes low after a 1 as the last bit, by one event, and not after a 0. -/
theorem test_wrbits_rests_low :
    ∀ t ∈ ([(0x80, 0x0180, 25), (0x7F, 0x017F, 24)] : List (Byte × Nat × Nat)),
      after (exec (.wrbits t.1) (State.withFetchWord
        { State.reset with params := { Params.defaults with dioRest := .low } } 16 t.2.1))
        (fun u => (u.trace.length, u.pads.dioLvl, u.seq)) = some (t.2.2, false, none) := by
  decide

/-- R133: 24 events, whatever the bits. -/
theorem test_rdbits_events :
    after (exec .rdbits (started 0x0200)) (fun t => (t.trace.length, t.seq, t.err)) = some (24, none, 0) := by
  decide

/-- R144. -/
theorem test_rdbyte : after (exec (.rdbyte 0x83) (run 0x0383 0 1 0x59)) State.result = some 0x59 := by decide

/-- R145: the byte is written, ignored while WP = 1, and ignored for a read command by R90 (log entry 21). -/
theorem test_wrbyte :
    ∀ t ∈ ([(.wrbyte 0x82, 0x0482, 0x00, 0x45), (.wrbyte 0x82, 0x0482, 0x80, 0x30),
        (.wrbyte 0x83, 0x0483, 0x00, 0x30)] : List (Instr × Nat × Byte × Byte)),
      after (exec t.1 (run t.2.1 0x45 7 t.2.2.1)) (regOf 1) = some (some t.2.2.2) := by
  decide

/-- R153. -/
theorem test_rdburst_clock :
    after (exec .rdburstClock (run 0x0500 0 0 0x00)) (fun t => ((t.buf.firstBytes 9, t.buf.byte 9), t.seq.isSome)) =
      some (([0x00, 0x30, 0x15, 0x01, 0x01, 0x02, 0x24, 0x80, 0x00], 0x00), false) := by
  decide +kernel

/-- R154, R86: with the default command 0xBF the first nine bytes are the clock registers. -/
theorem test_rdburst_ram :
    after (exec .rdburstRam (run 0x0501 0 0 0x00)) (fun t => (t.buf.firstBytes 9, t.seq.isSome)) =
      some ([0x00, 0x30, 0x15, 0x01, 0x01, 0x02, 0x24, 0x80, 0x00], false) := by
  decide +kernel

/-- R155. -/
theorem test_wrburst_clock :
    after (exec .wrburstClock (State.withFetchWord { onWires (sampleRp.setReg 0 0x59) with
        buf := Buffer.putFrom Buffer.reset 0 [0x00, 0x30, 0x15, 0x01, 0x01, 0x02, 0x24, 0x00, 0x00] } 16 0x0600))
      (fun t => (regOf 0 t, regOf 6 t, regOf 7 t, regOf 8 t)) =
      some (some 0x00, some 0x24, some 0x80, some 0x00) := by
  decide +kernel

/-- R156, R88: byte 7 with bit 7 set blocks byte 8. -/
theorem test_wrburst_ram :
    after (exec .wrburstRam (State.withFetchWord { onWires (sampleRp.setReg 8 0x5C) with
        buf := Buffer.putFrom Buffer.reset 0 [1, 2, 3, 4, 5, 6, 7, 0x80, 9] } 16 0x0601))
      (fun t => (regOf 0 t, regOf 6 t, regOf 7 t, regOf 8 t)) =
      some (some 1, some 7, some 0x80, some 0x5C) := by
  decide +kernel

/-- R172, R173, R174, R175, R176, R177, R178: the word, the register read, the byte in it, RESULT. -/
theorem test_rdfield :
    ∀ t ∈ ([(.rdfieldSecond, 0x0700, 0, 0xD9, 59),
      (.rdfieldMinute, 0x0701, 1, 0x59, 59),
      (.rdfieldHour, 0x0702, 2, 0x15, 15),
      (.rdfieldHour, 0x0702, 2, 0xA3, 3),
      (.rdfieldDate, 0x0703, 3, 0x3F, 45),
      (.rdfieldMonth, 0x0704, 4, 0x1F, 25),
      (.rdfieldWeekday, 0x0705, 5, 0xFF, 255),
      (.rdfieldYear, 0x0706, 6, 0xFF, 165)] : List (Instr × Nat × Nat × Byte × Byte)),
      after (exec t.1 (run t.2.1 0 t.2.2.1 t.2.2.2.1)) State.result = some t.2.2.2.2 := by
  decide

/-- R179, R180, R181, R182, R183, R184: the word, the register read, the byte in it, RESULT. -/
theorem test_rdfield_flags :
    ∀ t ∈ ([(.rdfieldMeridiem, 0x0707, 2, 0xA3, 1),
      (.rdfieldMeridiem, 0x0707, 2, 0x21, 1),
      (.rdfieldHourFormat, 0x0708, 2, 0xA3, 1),
      (.rdfieldClockHalt, 0x0709, 0, 0x80, 1),
      (.rdfieldWriteProtect, 0x070A, 7, 0x80, 1),
      (.rdfieldRawHour, 0x070B, 2, 0xA3, 0xA3),
      (.rdfieldTrickle, 0x070C, 8, 0xA5, 0xA5)] : List (Instr × Nat × Nat × Byte × Byte)),
      after (exec t.1 (run t.2.1 0 t.2.2.1 t.2.2.2.1)) State.result = some t.2.2.2.2 := by
  decide

/-- R206, R207, R208, R209, R210, R211, R212: the word, DATA, the register, the byte in it before, and after; WP is set afterwards. -/
theorem test_wrfield :
    ∀ t ∈ ([(.wrfieldSecond, 0x0800, 45, 0, 0x80, 0xC5),
      (.wrfieldSecond, 0x0800, 99, 0, 0x00, 0x19),
      (.wrfieldMinute, 0x0801, 30, 1, 0x00, 0x30),
      (.wrfieldHour, 0x0802, 23, 2, 0x15, 0x23),
      (.wrfieldHour, 0x0802, 15, 2, 0x83, 0x83),
      (.wrfieldDate, 0x0803, 31, 3, 0xC0, 0xF1),
      (.wrfieldMonth, 0x0804, 12, 4, 0x00, 0x12),
      (.wrfieldWeekday, 0x0805, 2, 5, 0x07, 0x02),
      (.wrfieldYear, 0x0806, 255, 6, 0x00, 0x95)] : List (Instr × Nat × Byte × Nat × Byte × Byte)),
      after (exec t.1 (run t.2.1 t.2.2.1 t.2.2.2.1 t.2.2.2.2.1)) (fun u => (regOf t.2.2.2.1 u, regOf 7 u)) =
        some (some t.2.2.2.2.2, some 0x80) := by
  decide +kernel

/-- R213, R214, R215, R216, R217, R218: the word, DATA, the register, the byte in it before, and after; WP is set afterwards. -/
theorem test_wrfield_flags :
    ∀ t ∈ ([(.wrfieldMeridiem, 0x0807, 1, 2, 0x83, 0xA3),
      (.wrfieldMeridiem, 0x0807, 1, 2, 0x15, 0x15),
      (.wrfieldHourFormat, 0x0808, 1, 2, 0x15, 0xA3),
      (.wrfieldHourFormat, 0x0808, 0, 2, 0xB2, 0x24),
      (.wrfieldClockHalt, 0x0809, 1, 0, 0x45, 0xC5),
      (.wrfieldRawHour, 0x080B, 0xA3, 2, 0x15, 0xA3),
      (.wrfieldTrickle, 0x080C, 0xA5, 8, 0x00, 0xA5)] : List (Instr × Nat × Byte × Nat × Byte × Byte)),
      after (exec t.1 (run t.2.1 t.2.2.1 t.2.2.2.1 t.2.2.2.2.1)) (fun u => (regOf t.2.2.2.1 u, regOf 7 u)) =
        some (some t.2.2.2.2.2, some 0x80) := by
  decide +kernel

/-- R216: only bit 0 of the value counts, and WP stays clear. -/
theorem test_wrfield_writeprotect :
    after (exec .wrfieldWriteProtect (run 0x080A 0xFE 7 0x80)) (regOf 7) = some (some 0x00) := by
  decide

/-- R241. -/
theorem test_gettime :
    after (exec .gettime (run 0x0900 0 0 0x00)) (fun t => (t.tr, t.seq.isSome)) =
      some ({ sec := 0, min := 30, hour := 15, date := 1, month := 1, year := 24, wday := 2, fmt := 0, mer := 0 }, false) := by
  decide +kernel

/-- R242, R244: hour 13 in 12 h format fails with no line event. -/
theorem test_settime_rejects :
    after (exec .settime (setting { record12 with hour := 13 })) (fun t => (t.err, t.trace, t.seq)) =
      some (0x4, [], none) := by
  decide

/-- R86: each register read command lays out its register. -/
theorem test_command_reads :
    ∀ r ∈ registerMap,
      after (exec r.read (framed (onWires sampleRp) r.readCmd .rd)) (fun t => t.frame.map (·.resp)) =
        some (some [some (sampleRp.reg r.index)]) := by
  decide

/-- R87: with WP = 1 only the WP register takes a write. -/
theorem test_command_writes :
    ∀ r ∈ registerMap,
      after (exec r.write (framed (onWires sampleRp) r.writeCmd (.wr 0x77))) (regOf r.index) =
        some (some (if r.index = 7 then 0x77 else sampleRp.reg r.index)) := by
  decide

/-- R86: byte 9 of a clock burst is a draw. -/
theorem test_command_burst_read :
    after (exec .cmdRdClockBurst (framed (onWires sampleRp) 0xBF (.brd 10)))
      (fun t => t.frame.map fun f => (f.resp.getD 8 none, f.resp.getD 9 none)) = some (some (some 0x00, none)) := by
  decide

/-- R88: with WP = 1 a burst that clears WP in byte 7 still writes byte 8. -/
theorem test_command_burst_write :
    after (exec .cmdWrClockBurst (framed (onWires sampleRp) 0xBE (.bwr [1, 2, 3, 4, 5, 6, 7, 0x00, 9])))
      (fun t => (regOf 0 t, regOf 7 t, regOf 8 t)) = some (some 0x00, some 0x00, some 9) := by
  decide +kernel

/-- R24, R25: loads at the edges of the register ranges, after reset. -/
theorem test_load_edges :
    (hostDoes State.reset (.load 0x0E)).hostAct.reads = [⟨0x0E, 0xFF⟩] ∧
    (hostDoes State.reset (.load 0x0F)).hostAct.reads = [⟨0x0F, 0x00⟩] ∧
    (hostDoes { State.reset with buf := Buffer.reset.put 30 7 } (.load 0x2E)).hostAct.reads = [⟨0x2E, 7⟩] ∧
    (hostDoes { State.reset with buf := Buffer.reset.put 0 7 } (.load 0x10)).hostAct.reads = [⟨0x10, 7⟩] ∧
    (hostDoes State.reset (.load 0x2F)).hostAct.reads = [⟨0x2F, 0x00⟩] := by
  decide

/-- R24, R25: stores at the edges. -/
theorem test_store_edges :
    (hostDoes State.reset (.store 0x2E 7)).hostAct.buf.byte 30 = 7 ∧
    (hostDoes State.reset (.store 0x10 7)).hostAct.buf.byte 0 = 7 ∧
    (hostDoes State.reset (.store 0x2F 7)).hostAct = State.reset ∧
    (hostDoes State.reset (.store 0x0F 7)).hostAct = State.reset ∧
    (hostDoes State.reset (.store 0x04 7)).hostAct = State.reset := by
  decide

/-- R264, R27: STATUS after a request that found BUSY = 1 is BUSY and OVR. -/
theorem test_status_overrun : (hostDoes (started 0x0900) (.store 0 9)).hostAct.status = 0x03 := by decide

/-- 93_implementation_defined.md U4: a read command in a write frame makes the register a draw (log entry 21). -/
theorem test_stray_drawn :
    regOf 1 ((framed (onWires { sampleRp.setReg 7 0x00 with strayRead := .drawn }) 0x83 (.wr 0x45)).takeCommand 0x83) =
      some (Config.freeByte 0) :=
  rfl

/-- R292: a reset in a single write frame makes the addressed register a free byte and leaves the others. -/
theorem test_reset_cut :
    (regOf 1 (framed (onWires sampleRp) 0x82 (.wr 0x45)).blockReset, regOf 2 (framed (onWires sampleRp) 0x82 (.wr 0x45)).blockReset) =
      (some (Config.freeByte 0), some 0x15) := by
  rfl

/-- R292, log entry 21: what a cut leaves where a read command makes registers draws. WRBYTE #0xBF reaches RPC[0], and a burst
frame with the command of the minutes reaches RPC[1]; no other clock register changes. -/
theorem test_reset_cut_stray :
    (RefPeripheral.cut { sampleRp with strayRead := .drawn } ⟨0xBF, .wr 0x45, 3, 0, [], false⟩ 0).rpc =
      sampleRp.rpc.setIfInBounds 0 (Config.freeByte 0) ∧
    (RefPeripheral.cut { sampleRp with strayRead := .drawn } ⟨0x83, .bwr [1, 2], 3, 0, [], false⟩ 0).rpc =
      sampleRp.rpc.setIfInBounds 1 (Config.freeByte 0) :=
  ⟨rfl, rfl⟩

/-! ### Witnesses: each statement with hypotheses is met by a concrete state -/

theorem started_at (s : State) (w : Nat) (i : Instr) (h : decodeWord (BitVec.ofNat 16 w) = .ok i) :
    Started i (s.withFetchWord 16 w) :=
  ⟨⟨_, h, rfl⟩, rfl, rfl⟩

theorem test_witness_DecodeEncode :
    WellFormed .settime = true := rfl

theorem test_witness_LegalWordsEncode :
    decodeWord 0x02FF = .ok .rdbits ∧ decodeWord 0x0601 = .ok .wrburstRam := ⟨rfl, rfl⟩

theorem test_witness_CommandMap :
    (⟨.cmdRdTrickle, .cmdWrTrickle, 0x91, 0x90, 8⟩ : MapRow) ∈ registerMap := by decide

theorem test_witness_StepRunsOperation :
    (∀ f, (started 0x0900).frame = some f → f.turn = false) ∧ (started 0x0900).hostDue = false ∧
      (started 0x0900).seq = some ⟨0x0900, 0, []⟩ ∧ decodeWord 0x0900 = .ok .gettime ∧
      decodeTableWord 16 0x0900 = some .gettime := 
  ⟨fun _ h => (nomatch h), rfl, rfl, rfl, rfl⟩

theorem test_witness_StepRunsCommand :
    (∃ f, (framed State.reset 0x81 .rd).frame = some f ∧ f.turn = true ∧ decodeCommand f.cmd = .ok .cmdRdSeconds) ∧
      (∃ f, (framed State.reset 0xFD .rd).frame = some f ∧ f.turn = true ∧
        decodeCommand f.cmd = .error .unlistedCommand) ∧
      decodeTableWord 8 0x81 = some .cmdRdSeconds := 
  ⟨⟨_, rfl, rfl, rfl⟩, ⟨_, rfl, rfl, rfl⟩, rfl⟩

theorem test_witness_HostTurn :
    State.reset.turn = .host ∧ State.reset.inputs = [] := ⟨rfl, rfl⟩

/-- One event (WRBITS), and a completion with none (a SETTIME that fails). -/
theorem test_witness_OneEventPerStep :
    after (exec (.wrbits 1) { started 0x0101 with inputs := [⟨.afterSteps 1, .load 4⟩] })
      (fun t => (t.trace.length, t.seq.isSome)) = some (1, true) ∧
    after (exec .settime { setting { record12 with hour := 13 } with inputs := [⟨.afterSteps 1, .load 4⟩] })
      (fun t => (t.trace.length, t.seq.isSome)) = some (0, false) := by
  decide

theorem test_witness_ResumesWhereItStopped :
    decodeWord 0x0101 = .ok (.wrbits 1) ∧ (started 0x0101).seq = some ⟨0x0101, 0, []⟩ ∧
    ({ started 0x0101 with inputs := [] } : State).quiet = true ∧
    after (exec (.wrbits 1) { started 0x0101 with inputs := [⟨.afterSteps 5, .load 4⟩] })
      (fun t => t.seq.isSome) = some true := by
  decide

theorem test_witness_RequestAccepted :
    (hostDoes State.reset (.store 0 9)).turn = .host ∧
      (hostDoes State.reset (.store 0 9)).inputs = [⟨.whenIdle, .store 0 9⟩] ∧ (hostDoes State.reset (.store 0 9)).seq = none ∧
      decodeWord (opWord 9 State.reset.arg) = .ok .gettime := ⟨rfl, rfl, rfl, rfl⟩

theorem test_witness_RequestIllegal :
    (hostDoes State.reset (.store 0 0x0B)).turn = .host ∧
      (hostDoes State.reset (.store 0 0x0B)).inputs = [⟨.whenIdle, .store 0 0x0B⟩] ∧
      (hostDoes State.reset (.store 0 0x0B)).seq = none ∧ illegalWord 0x0B State.reset.arg = true := ⟨rfl, rfl, rfl, rfl⟩

/-- A running GETTIME with a store to OPC due now. -/
def storing : State := { started 0x0900 with inputs := [⟨.afterSteps 0, .store 0 9⟩] }

theorem test_witness_RequestOverrun :
    storing.turn = .host ∧ storing.inputs = [⟨.afterSteps 0, .store 0 9⟩] ∧ storing.seq = some ⟨0x0900, 0, []⟩ := ⟨rfl, rfl, rfl⟩

theorem test_witness_HostLoad :
    (hostDoes State.reset (.load 4)).turn = .host ∧ (hostDoes State.reset (.load 4)).inputs = [⟨.whenIdle, .load 4⟩] := ⟨rfl, rfl⟩

theorem test_witness_HostStore :
    (hostDoes State.reset (.store 0x0E 7)).turn = .host ∧
      (hostDoes State.reset (.store 0x0E 7)).inputs = [⟨.whenIdle, .store 0x0E 7⟩] ∧ (0x0E : Offset) ≠ 0 := 
  ⟨rfl, rfl, by decide⟩

theorem test_witness_ResetInput :
    (hostDoes State.reset .reset).turn = .host ∧ (hostDoes State.reset .reset).inputs = [⟨.whenIdle, .reset⟩] ∧
      (hostDoes State.reset .reset).frame = none := ⟨rfl, rfl, rfl⟩

/-- A reset due now inside a frame of the reference peripheral. -/
def cutting (c : Byte) (kind : FrameKind) : State :=
  { onWires sampleRp with
    frame := some { cmd := c, kind := kind, rises := 3, sampled := 0, resp := [], turn := false }
    inputs := [⟨.afterSteps 0, .reset⟩] }

/-- One witness for each kind of frame; the second clause is met by the row of the minutes register. -/
theorem test_witness_ResetCutsFrame :
    (∀ k ∈ [FrameKind.rd, .brd 9, .wr 0x45, .bwr [1]],
      (cutting 0x82 k).turn = .host ∧ (cutting 0x82 k).inputs = [⟨.afterSteps 0, .reset⟩] ∧
        ((cutting 0x82 k).frame.map fun f => f.kind) = some k) ∧
    (cutting 0x82 .rd).periph = .reference sampleRp ∧
    (⟨.cmdRdMinutes, .cmdWrMinutes, 0x83, 0x82, 1⟩ : MapRow) ∈ registerMap := by
  decide

/-- The device: a reset inside a write frame leaves the block as at reset. -/
theorem test_witness_ResetCutsFrame_device :
    ({ cutting 0x82 (.wr 0x45) with periph := .device }).turn = .host ∧
      after (step { cutting 0x82 (.wr 0x45) with periph := .device })
        (fun t => (t.periph, t.pads, t.seq)) = some (.device, State.reset.pads, none) :=
  ⟨rfl, rfl⟩

/-- The clauses on a write frame of any command, in both readings of log entry 21. -/
theorem test_witness_ResetCutsFrame_stray :
    cmdReads 0x83 = true ∧ (cutting 0x83 (.wr 0x45)).turn = .host ∧
    (cutting 0x83 (.wr 0x45)).periph = .reference sampleRp ∧ sampleRp.strayRead = .ignored ∧
    ((cutting 0x83 (.wr 0x45)).takeCommand 0x83).periph = .reference sampleRp ∧
    (∃ rq, ({ cutting 0xBF (.wr 0x45) with periph := .reference { sampleRp with strayRead := .drawn } }.takeCommand
      0xBF).periph = .reference rq) :=
  ⟨rfl, rfl, rfl, rfl, rfl, ⟨_, rfl⟩⟩

/-- The burst clause. -/
theorem test_witness_ResetCutsFrame_burst :
    (cutting 0xBE (.bwr [1, 2])).turn = .host ∧
      (cutting 0xBE (.bwr [1, 2])).frame =
        some { cmd := 0xBE, kind := .bwr [1, 2], rises := 3, sampled := 0, resp := [], turn := false } :=
  ⟨rfl, rfl⟩

theorem test_witness_WrbitsShiftsOut : Started (.wrbits 0xA5) (State.withFetchWord State.reset 16 0x01A5) :=
  started_at _ _ _ rfl

theorem test_witness_RdbitsShiftsIn : Started .rdbits (State.withFetchWord State.reset 16 0x0200) :=
  started_at _ _ _ rfl

/-- The device, a read command of a register, the burst read command and a write command on the reference peripheral. -/
theorem test_witness_RdbyteReads :
    Started (.rdbyte 0x83) (started 0x0383) ∧ (started 0x0383).periph = .device ∧
    Started (.rdbyte 0x91) (run 0x0391 0 0 0) ∧ cmdReads 0x91 = true ∧ cmdSpace 0x91 = 2 ∧ cmdIdx 0x91 = 8 ∧
    Started (.rdbyte 0xBF) (run 0x03BF 0 0 0) ∧ cmdReads 0xBF = true ∧ cmdSpace 0xBF = 2 ∧ cmdIdx 0xBF = 31 ∧
    Started (.rdbyte 0x90) (run 0x0390 0 0 0) ∧ cmdReads 0x90 = false ∧ cmdSpace 0x90 = 2 ∧ cmdIdx 0x90 = 8 :=
  ⟨started_at _ _ _ rfl, rfl, started_at _ _ _ rfl, rfl, rfl, rfl, started_at _ _ _ rfl, rfl, rfl, rfl,
    started_at _ _ _ rfl, rfl, rfl, rfl⟩

/-- A read command, the last register's write command, the first byte above it, and the bytes of the other spaces. -/
theorem test_witness_WrbyteWrites :
    Started (.wrbyte 0x91) (run 0x0491 0 0 0) ∧ cmdReads 0x91 = true ∧
    Started (.wrbyte 0x90) (run 0x0490 0 0 0) ∧ cmdReads 0x90 = false ∧ cmdSpace 0x90 = 2 ∧ cmdIdx 0x90 = 8 ∧
    Started (.wrbyte 0x92) (run 0x0492 0 0 0) ∧ cmdReads 0x92 = false ∧ cmdSpace 0x92 = 2 ∧ cmdIdx 0x92 = 9 ∧
    cmdReads 0x7E = false ∧ cmdSpace 0x7E = 1 ∧ cmdReads 0xFE = false ∧ cmdSpace 0xFE = 3 ∧ cmdIdx 0xFE = 31 ∧
    (run 0x0491 0 0 0).periph = .reference (sampleRp.setReg 0 0) ∧ (sampleRp.setReg 0 0).strayRead = .ignored :=
  ⟨started_at _ _ _ rfl, rfl, started_at _ _ _ rfl, rfl, rfl, rfl, started_at _ _ _ rfl, rfl, rfl, rfl,
    rfl, rfl, rfl, rfl, rfl, rfl, rfl⟩

/-- The device, and a read command under the other reading of log entry 21. -/
theorem test_witness_WrbyteWrites_drawn :
    Started (.wrbyte 0x90) (started 0x0490) ∧ (started 0x0490).periph = .device ∧
    Started (.wrbyte 0x91) (State.withFetchWord (onWires { sampleRp with strayRead := .drawn }) 16 0x0491) ∧
    cmdReads 0x91 = true ∧ cmdSpace 0x91 = 2 ∧ cmdIdx 0x91 = 8 ∧
    ({ sampleRp with strayRead := .drawn } : RefPeripheral).strayRead = .drawn :=
  ⟨started_at _ _ _ rfl, rfl, started_at _ _ _ rfl, rfl, rfl, rfl, rfl⟩

theorem test_witness_RdburstClockReads : Started .rdburstClock (State.withFetchWord State.reset 16 0x0500) :=
  started_at _ _ _ rfl

/-- The default command and the RAM space's. -/
theorem test_witness_RdburstRamReads :
    Started .rdburstRam (run 0x0501 0 0 0) ∧ (run 0x0501 0 0 0).params.ramBurstRd = 0xBF ∧
    Started .rdburstRam (State.withFetchWord { onWires sampleRp with
      params := { Params.defaults with ramBurstRd := 0xFF } } 16 0x0501) :=
  ⟨started_at _ _ _ rfl, rfl, started_at _ _ _ rfl⟩

theorem test_witness_WrburstClockWrites : Started .wrburstClock (State.withFetchWord (onWires sampleRp) 16 0x0600) :=
  started_at _ _ _ rfl

theorem test_witness_WrburstRamWrites :
    Started .wrburstRam (run 0x0601 0 0 0) ∧ (run 0x0601 0 0 0).params.ramBurstWr = 0xBE ∧
      (run 0x0601 0 0 0).periph = .reference (sampleRp.setReg 0 0) :=
  ⟨started_at _ _ _ rfl, rfl, rfl⟩

theorem test_witness_RdfieldDigits :
    Started .rdfieldSecond (started 0x0700) ∧
    Started .rdfieldMinute (started 0x0701) ∧
    Started .rdfieldDate (started 0x0703) ∧
    Started .rdfieldMonth (started 0x0704) ∧
    Started .rdfieldYear (started 0x0706) :=
  ⟨started_at _ _ _ rfl, started_at _ _ _ rfl, started_at _ _ _ rfl, started_at _ _ _ rfl, started_at _ _ _ rfl⟩

theorem test_witness_RdfieldHour : Started .rdfieldHour (started 0x0702) := started_at _ _ _ rfl

theorem test_witness_RdfieldFlags :
    Started .rdfieldMeridiem (started 0x0707) ∧
    Started .rdfieldHourFormat (started 0x0708) ∧
    Started .rdfieldClockHalt (started 0x0709) ∧
    Started .rdfieldWriteProtect (started 0x070A) :=
  ⟨started_at _ _ _ rfl, started_at _ _ _ rfl, started_at _ _ _ rfl, started_at _ _ _ rfl⟩

theorem test_witness_RdfieldRaw :
    Started .rdfieldWeekday (started 0x0705) ∧
    Started .rdfieldRawHour (started 0x070B) ∧
    Started .rdfieldTrickle (started 0x070C) :=
  ⟨started_at _ _ _ rfl, started_at _ _ _ rfl, started_at _ _ _ rfl⟩

theorem test_witness_WrfieldMerges :
    Started .wrfieldSecond (started 0x0800) ∧
    Started .wrfieldMinute (started 0x0801) ∧
    Started .wrfieldDate (started 0x0803) ∧
    Started .wrfieldMonth (started 0x0804) ∧
    Started .wrfieldYear (started 0x0806) :=
  ⟨started_at _ _ _ rfl, started_at _ _ _ rfl, started_at _ _ _ rfl, started_at _ _ _ rfl, started_at _ _ _ rfl⟩

theorem test_witness_WrfieldHour : Started .wrfieldHour (started 0x0802) := started_at _ _ _ rfl

theorem test_witness_WrfieldRaw :
    Started .wrfieldWeekday (started 0x0805) ∧
    Started .wrfieldRawHour (started 0x080B) ∧
    Started .wrfieldTrickle (started 0x080C) :=
  ⟨started_at _ _ _ rfl, started_at _ _ _ rfl, started_at _ _ _ rfl⟩

theorem test_witness_WrfieldMeridiem : Started .wrfieldMeridiem (started 0x0807) := started_at _ _ _ rfl

theorem test_witness_WrfieldHourFormat : Started .wrfieldHourFormat (started 0x0808) := started_at _ _ _ rfl

theorem test_witness_WrfieldClockHalt : Started .wrfieldClockHalt (started 0x0809) := started_at _ _ _ rfl

theorem test_witness_WrfieldWriteProtect :
    Started .wrfieldWriteProtect (run 0x080A 1 7 0) ∧
      (0x80 : Byte) = (if (run 0x080A 1 7 0).snap.data.getLsbD 0 then 0x80 else 0x00) :=
  ⟨started_at _ _ _ rfl, by decide⟩

/-- FORCE_SET, and RESTORE_PRIOR. -/
theorem test_witness_WpAfterGuardedWrite :
    Started .wrfieldSecond (run 0x0800 0 7 0) ∧ (run 0x0800 0 7 0).periph = .reference (sampleRp.setReg 7 0) ∧
    (run 0x0800 0 7 0).params.wpRestore = .forceSet ∧
    Started .wrfieldSecond (State.withFetchWord { onWires sampleRp with
      params := { Params.defaults with wpRestore := .restorePrior } } 16 0x0800) :=
  ⟨started_at _ _ _ rfl, rfl, rfl, started_at _ _ _ rfl⟩

/-- The device and the reference peripheral. -/
theorem test_witness_GettimeReads :
    Started .gettime (started 0x09FF) ∧ (started 0x09FF).periph = .device ∧
      Started .gettime (run 0x0900 0 0 0) ∧ (run 0x0900 0 0 0).periph = .reference (sampleRp.setReg 0 0) :=
  ⟨started_at _ _ _ rfl, rfl, started_at _ _ _ rfl, rfl⟩

theorem test_witness_SettimeRejects :
    Started .settime (setting { record12 with hour := 13 }) ∧
      firstFailure (setting { record12 with hour := 13 }).snap.tr ≠ 0 :=
  ⟨started_at _ _ _ rfl, by decide⟩

/-- Both formats pass the checks and meet the clauses for SETTIME on the reference peripheral. -/
theorem test_witness_SettimeWrites :
    Started .settime (setting record12) ∧ firstFailure (setting record12).snap.tr = 0 ∧
    Started .settime (setting record24) ∧ firstFailure (setting record24).snap.tr = 0 ∧
    (setting record12).periph = .reference sampleRp ∧ (setting record12).snap.tr.fmt = 1 ∧
    (setting record24).snap.tr.fmt = 0 :=
  ⟨started_at _ _ _ rfl, by decide, started_at _ _ _ rfl, by decide, rfl, rfl, rfl⟩

/-- The same two states meet the hypotheses on the hour register and on SETTIME followed by GETTIME. -/
theorem test_witness_SettimeHourRegister_SetThenGet :
    Started .settime (setting { record24 with hour := 20 }) ∧
      firstFailure (setting { record24 with hour := 20 }).snap.tr = 0 ∧
      (setting { record24 with hour := 20 }).periph = .reference sampleRp :=
  ⟨started_at _ _ _ rfl, by decide, rfl⟩

/-- A single-byte and a burst read frame. -/
theorem test_witness_CmdReadAnswers_CmdClockBurstReads :
    (∃ f, (framed (onWires sampleRp) 0x91 .rd).frame = some f ∧ f.kind = .rd) ∧
    (∃ f, (framed (onWires sampleRp) 0xBF (.brd 9)).frame = some f ∧ f.kind = .brd 9) ∧
    (framed (onWires sampleRp) 0xBF (.brd 9)).periph = .reference sampleRp :=
  ⟨⟨_, rfl, rfl⟩, ⟨_, rfl, rfl⟩, rfl⟩

/-- A single and a burst write frame, of exactly nine bytes. -/
theorem test_witness_CmdWriteTakes_CmdClockBurstWrites :
    (∃ f, (framed (onWires sampleRp) 0x90 (.wr 5)).frame = some f ∧ f.kind = .wr 5) ∧
    (∃ f, (framed (onWires sampleRp) 0xBE (.bwr [1, 2, 3, 4, 5, 6, 7, 8, 9])).frame = some f ∧
      f.kind = .bwr [1, 2, 3, 4, 5, 6, 7, 8, 9]) ∧
    (framed (onWires sampleRp) 0x90 (.wr 5)).periph = .reference sampleRp :=
  ⟨⟨_, rfl, rfl⟩, ⟨_, rfl, rfl⟩, rfl⟩

theorem test_witness_CmdMismatch :
    (∃ f, (framed (onWires sampleRp) 0x90 .rd).frame = some f ∧ f.kind = .rd) ∧
    (∃ f, (framed (onWires sampleRp) 0x91 (.wr 5)).frame = some f ∧ f.kind = .wr 5) ∧
    (∃ f, (framed (onWires sampleRp) 0xBF (.bwr [5])).frame = some f ∧ f.kind = .bwr [5]) ∧
    (framed (onWires sampleRp) 0x90 .rd).periph = .reference sampleRp ∧ sampleRp.strayRead = .ignored :=
  ⟨⟨_, rfl, rfl⟩, ⟨_, rfl, rfl⟩, ⟨_, rfl, rfl⟩, rfl, rfl⟩

/-- The same frames with the other reading of log entry 21: a read command in a single and in a burst write frame. -/
theorem test_witness_CmdMismatch_drawn :
    (∃ f, (framed (onWires { sampleRp with strayRead := .drawn }) 0x91 (.wr 5)).frame = some f ∧ f.kind = .wr 5) ∧
    (∃ f, (framed (onWires { sampleRp with strayRead := .drawn }) 0x91 (.bwr [5])).frame = some f ∧
      f.kind = .bwr [5] ∧ [(5 : Byte)].length = 1) ∧
    ({ sampleRp with strayRead := .drawn } : RefPeripheral).strayRead = .drawn :=
  ⟨⟨_, rfl, rfl⟩, ⟨_, rfl, rfl, rfl⟩, rfl⟩

theorem test_witness_CmdOnDevice :
    Instr.cmdWrClockBurst ∈ commands ∧ (∃ f, (framed State.reset 0xBE (.bwr [1])).frame = some f) ∧
      (framed State.reset 0xBE (.bwr [1])).periph = .device ∧ State.reset.frame = none :=
  ⟨by decide, ⟨_, rfl⟩, rfl, rfl⟩

/-- The largest value of each clause. -/
theorem test_witness_BcdRoundTrip :
    (79 : Byte).toNat ≤ 79 ∧ (39 : Byte).toNat ≤ 39 ∧ (12 : Byte).toNat ≤ 12 ∧ (1 : Byte).toNat ≤ 1 ∧
      (19 : Byte).toNat ≤ 19 ∧ (159 : Byte).toNat ≤ 159 := by
  decide

theorem test_witness_FormatRoundTrip :
    (23 : Byte).toNat ≤ 23 ∧ 1 ≤ (12 : Byte).toNat ∧ (12 : Byte).toNat ≤ 12 ∧ (1 : Byte).toNat ≤ 1 := by
  decide

/-- A raw byte in each hour format. -/
theorem test_witness_DecodeRanges : (0x3F : Byte).getLsbD 7 = false ∧ (0x9F : Byte).getLsbD 7 = true := by decide

/-- A running operation in the invariant, with a next state. -/
theorem test_witness_StepKeepsInv :
    Invariant (started 0x0101) ∧ after (step (started 0x0101)) State.ovr = some false := by
  refine ⟨⟨rfl, ⟨rfl, rfl⟩, Or.inl (by decide), fun h => (nomatch h), fun q h => ?_⟩, by decide⟩
  cases h
  exact ⟨rfl, rfl⟩

/-- An instruction of each kind that leaves most registers alone answers a next state. -/
theorem test_witness_InstructionsWriteOnly :
    after (exec (.wrbits 1) (started 0x0101)) State.arg = some 1 ∧
      after (exec .rdbits (started 0x0200)) State.arg = some 0 := by
  decide

/-- A host step that is no reset, and one that is. -/
theorem test_witness_TraceOnlyGrows :
    after (step (hostDoes State.reset (.load 4))) State.trace = some [] ∧
      (hostDoes State.reset .reset).turn = .host ∧
      after (step (hostDoes State.reset .reset)) State.trace = some [] := by
  decide

theorem test_witness_SnapshotIsolates :
    after (exec (.wrbits 1) ((started 0x0101).storeReg 0x01 0xFF)) (fun t => (t.trace.length, t.pads.dioLvl)) =
      some (24, false) := by
  decide

/-- The clauses on a completed operation: GETTIME and both RDBURST, each from a running sequencer to an idle one. -/
theorem test_witness_SnapshotIsolates_completed :
    (run 0x0900 0 0 0).seq.isSome = true ∧
    (after (exec .gettime (run 0x0900 0 0 0)) fun t => (t.tr, t.seq.isSome)).map Prod.snd = some false ∧
    (after (exec .rdburstClock (run 0x0500 0 0 0)) fun t => ((t.buf.firstBytes 9, t.buf.byte 9), t.seq.isSome)).map
      Prod.snd = some false ∧
    (after (exec .rdburstRam (run 0x0501 0 0 0)) fun t => (t.buf.firstBytes 9, t.seq.isSome)).map Prod.snd =
      some false := by
  rw [test_gettime, test_rdburst_clock, test_rdburst_ram]
  exact ⟨rfl, rfl, rfl, rfl⟩

/-! ### The longest example, last -/

/-- R244: 3 PM in 12 h format. -/
theorem test_settime :
    after (exec .settime (setting record12)) (regOf 2) = some (some 0xA3) := by
  decide +kernel

end Sys2Proof.Tests
end

section
/-! PROOFS. The peripheral's turn and the command bytes it takes (00_scope.md R4). -/

namespace Sys2Proof.Machine

/-! ### The peripheral's turn -/

theorem turn_peripheral {s : State} {f : Frame} (hf : s.frame = some f) (ht : f.turn = true) :
    s.turn = .peripheral f.cmd := by
  simp [State.turn, hf, Option.filter, ht]

theorem step_listed_command {s : State} {f : Frame} {i : Instr} (hf : s.frame = some f) (ht : f.turn = true)
    (hi : decodeCommand f.cmd = .ok i) : step s = exec i s := by
  simp only [step, turn_peripheral hf ht, hi]

theorem step_unlisted_command {s : State} {f : Frame} {why : Reject} (hf : s.frame = some f) (ht : f.turn = true)
    (hi : decodeCommand f.cmd = .error why) : step s = .next (s.takeCommand f.cmd) := by
  simp only [step, turn_peripheral hf ht, hi]

/-- A row of 8 bits is read as a command byte. -/
theorem decodeTableWord_command {w : Nat} {i : Instr} :
    decodeTableWord 8 w = some i ↔ decodeCommand (BitVec.ofNat 8 w) = .ok i := by
  cases h : decodeCommand (BitVec.ofNat 8 w) <;> simp [decodeTableWord, h, Except.toOption]

theorem withFetchWord_command_frame (s : State) (w : Nat) :
    (s.withFetchWord 8 w).frame = some (frameAwaiting (BitVec.ofNat 8 w)) := rfl

/-! ### Command bytes -/

/-- An instruction of format wire_cmd8 is the peripheral taking its command byte. -/
theorem exec_command {i : Instr} {c : Byte} (h : encode i = .wireCmd8 c) (s : State) :
    exec i s = .next (s.takeCommand c) := by
  cases i <;> cases h <;> rfl

theorem exists_encode_of_mem_commands {i : Instr} (h : i ∈ commands) : ∃ c, encode i = .wireCmd8 c := by
  revert i
  simp [commands, registerMap, encode]

/-- Outside a frame a command byte has no effect (R85). -/
theorem takeCommand_of_no_frame {s : State} (hf : s.frame = none) (c : Byte) : s.takeCommand c = s := by
  simp [State.takeCommand, hf]

/-- On the device a command byte only ends the turn: the device's actions are invisible to the block (R80). -/
theorem takeCommand_device {s : State} {f : Frame} (hf : s.frame = some f) (hp : s.periph = .device) (c : Byte) :
    s.takeCommand c = { s with frame := some { f with turn := false } } := by
  simp [State.takeCommand, hf, hp, Peripheral.act]

/-! ### The statements -/

/-- Settles O8: the turn is the peripheral's, and `step` then goes by what the command byte decodes to. -/
theorem stepRunsCommand : Obligations.StepRunsCommand := by
  refine ⟨fun s f i hf ht hi => step_listed_command hf ht hi, fun s f why hf ht hi => step_unlisted_command hf ht hi,
    fun s w i hi => ?_⟩
  exact step_listed_command (withFetchWord_command_frame s w) rfl (decodeTableWord_command.mp hi)

/-- Settles O51: a command instruction is the peripheral taking its byte, which the device does not show and which
outside a frame does nothing. -/
theorem cmdOnDevice : Obligations.CmdOnDevice := by
  intro i hi s
  obtain ⟨c, hc⟩ := exists_encode_of_mem_commands hi
  rw [exec_command hc]
  constructor
  · intro f hf hp
    rw [takeCommand_device hf hp]
  · intro hf
    rw [takeCommand_of_no_frame hf]

end Sys2Proof.Machine
end

section
/-! PROOFS. What every rule and every host act keep: the invariant, the trace and the host registers (10_state.md R21 to R35). -/

namespace Sys2Proof.Machine

/-! ### Legal words (30_encoding.md R106) -/

theorem arg_lt_of_decodeRdburst {a : Byte} {i : Instr} (h : decodeRdburst a = .ok i) : a.toNat < 2 := by
  unfold decodeRdburst at h
  split at h
  case h_3 => cases h
  all_goals omega

theorem arg_lt_of_decodeWrburst {a : Byte} {i : Instr} (h : decodeWrburst a = .ok i) : a.toNat < 2 := by
  unfold decodeWrburst at h
  split at h
  case h_3 => cases h
  all_goals omega

theorem arg_lt_of_decodeRdfield {a : Byte} {i : Instr} (h : decodeRdfield a = .ok i) : a.toNat < 13 := by
  unfold decodeRdfield at h
  split at h
  case h_14 => cases h
  all_goals omega

theorem arg_lt_of_decodeWrfield {a : Byte} {i : Instr} (h : decodeWrfield a = .ok i) : a.toNat < 13 := by
  unfold decodeWrfield at h
  split at h
  case h_14 => cases h
  all_goals omega

/-- Outside the four families with ids, legality is a matter of the OPC byte. -/
theorem legalWord_of_opc {o a : Byte} (h1 : 1 ≤ o.toNat) (h2 : o.toNat ≤ 10) (hb : o.toNat = 5 ∨ o.toNat = 6 → a.toNat < 2)
    (hf : o.toNat = 7 ∨ o.toNat = 8 → a.toNat < 13) : illegalWord o a = false := by
  have e : ∀ n : Byte, (o == n) = decide (o.toNat = n.toNat) := fun n => by
    rw [Bool.eq_iff_iff]; simp [BitVec.toNat_eq]
  simp only [illegalWord, e]
  simp
  omega

/-- The decoder accepts legal words only. -/
theorem legal_of_decodeWord {w : OpWord} {i : Instr} (h : decodeWord w = .ok i) :
    illegalWord (opcOf w) (argOf w) = false := by
  unfold decodeWord at h
  split at h
  case h_5 ho => exact legalWord_of_opc (by omega) (by omega) (fun _ => arg_lt_of_decodeRdburst h) (by omega)
  case h_6 ho => exact legalWord_of_opc (by omega) (by omega) (fun _ => arg_lt_of_decodeWrburst h) (by omega)
  case h_7 ho => exact legalWord_of_opc (by omega) (by omega) (by omega) (fun _ => arg_lt_of_decodeRdfield h)
  case h_8 ho => exact legalWord_of_opc (by omega) (by omega) (by omega) (fun _ => arg_lt_of_decodeWrfield h)
  case h_11 => cases h
  all_goals exact legalWord_of_opc (by omega) (by omega) (by omega) (by omega)

/-! ### What a step can be -/

/-- A step that answers a next state is an instruction's, the peripheral's on a byte that is none, or the host's. -/
theorem step_cases {s t : State} (h : step s = .next t) :
    (∃ i, exec i s = .next t) ∨ (∃ c, t = s.takeCommand c) ∨ s.turn = .host ∧ t = s.hostAct := by
  unfold step at h
  split at h
  · split at h
    · exact .inl ⟨_, h⟩
    · cases h; exact .inr (.inl ⟨_, rfl⟩)
  · split at h
    · exact .inl ⟨_, h⟩
    · cases h
  · next ht => cases h; exact .inr (.inr ⟨ht, rfl⟩)

/-- What the host's turn can be. -/
theorem hostAct_cases (s : State) :
    s.hostAct = s ∨ ∃ m rest,
      (∃ a, s.inputs = ⟨m, .load a⟩ :: rest ∧ s.hostAct = { s with inputs := rest }.hostLoad a) ∨
      (∃ v, s.inputs = ⟨m, .store 0 v⟩ :: rest ∧ s.hostAct = { s with inputs := rest }.request v) ∨
      (∃ a v, a ≠ 0 ∧ s.inputs = ⟨m, .store a v⟩ :: rest ∧ s.hostAct = { s with inputs := rest }.storeReg a v) ∨
      s.inputs = ⟨m, .reset⟩ :: rest ∧ s.hostAct = { s with inputs := rest }.blockReset := by
  unfold State.hostAct
  split
  · exact .inl rfl
  · next i rest hi =>
    obtain ⟨m, act⟩ := i
    refine .inr ⟨m, rest, ?_⟩
    cases act with
    | load a => exact .inl ⟨a, hi, rfl⟩
    | store a v =>
      by_cases ha : a = 0
      · subst ha; exact .inr (.inl ⟨v, hi, rfl⟩)
      · exact .inr (.inr (.inl ⟨a, v, ha, hi, if_neg ha⟩))
    | reset => exact .inr (.inr (.inr ⟨hi, rfl⟩))

/-- What a request does (R26): nothing but OVR while an operation runs, ERR_ILLEGAL for an illegal word, else the
acceptance. -/
theorem request_cases (s : State) (v : Byte) :
    s.request v = { s with ovr := true } ∨ s.request v = { s with ovr := false, err := errIllegal } ∨
      ∃ i, decodeWord (opWord v s.arg) = .ok i ∧ s.request v = s.accept (opWord v s.arg) := by
  unfold State.request
  split
  · exact .inl rfl
  · cases decodeWord (opWord v s.arg) with
    | error why => exact .inr (.inl rfl)
    | ok i => exact .inr (.inr ⟨i, rfl, rfl⟩)

/-! ### What an instruction keeps -/

/-- A property that the primitives of a rule, its completion and the peripheral's act keep, every instruction keeps. -/
theorem exec_induct {i : Instr} {I : State → Prop}
    (hdir : ∀ s l d, (l = .dio ∨ d = .output) → I s → I (s.setDir l d))
    (hlvl : ∀ s l v, (l ≠ .ce ∨ v = false) → I s → I (s.setLevel l v))
    (hopen : ∀ s c kind, I s → I (s.openFrame c kind))
    (hwait : ∀ s n, I s → I (s.wait n))
    (hsamp : ∀ s b, I s → I (s.settle.sampled b))
    (hend : ∀ s r, mayEnd i r → I s → I (s.complete r))
    (htake : ∀ s c, I s → I (s.takeCommand c)) {s t : State} (hs : I s) (h : exec i s = .next t) : I t := by
  obtain ⟨rule, hrule, hk⟩ | ⟨c, -, hc⟩ := exec_cases i
  · obtain ⟨p, hp, hop⟩ := operate_cases hk s
    rw [hrule, hop] at h
    cases h
    exact advance_induct hdir hlvl hopen hwait hsamp hend p s hp hs
  · rw [hc] at h
    cases h
    exact htake s c hs

/-! ### How an instruction may end (10_state.md R30 to R32, 60_exceptions.md R260) -/

theorem mayEnd_value {i : Instr} {v : Byte} (h : mayEnd i (.value v)) :
    i = .rdbits ∨ (∃ c, i = .rdbyte c) ∨ i ∈ fieldReads := by
  cases i <;> simp [mayEnd] at h <;> simp [fieldReads]

theorem mayEnd_record {i : Instr} {r : TimeRecord} (h : mayEnd i (.record r)) : i = .gettime := by
  cases i <;> simp [mayEnd] at h ⊢

theorem mayEnd_bytes {i : Instr} {bs : List Byte} (h : mayEnd i (.bytes bs)) : i = .rdburstClock ∨ i = .rdburstRam := by
  cases i <;> simp [mayEnd] at h ⊢

theorem mayEnd_failed {i : Instr} {c : ErrCode} (h : mayEnd i (.failed c)) : ∃ t, c = validate t := by
  cases i <;> simp [mayEnd] at h
  exact h

theorem toNat_ite_le {p : Prop} [Decidable p] {x y : ErrCode} {n : Nat} (hx : x.toNat ≤ n) (hy : y.toNat ≤ n) :
    (if p then x else y).toNat ≤ n := by
  split <;> assumption

/-- The validation answers OK or one of the codes 1 to 9 (R242, R261). -/
theorem validate_le (r : TimeRecord) : (validate r).toNat ≤ 9 := by
  unfold validate
  iterate 10 refine toNat_ite_le (by decide) ?_
  decide

/-- Every code an operation ends with is OK or one of R242's. -/
theorem code_le_of_mayEnd {i : Instr} {r : OpResult} (h : mayEnd i r) : r.code.toNat ≤ 9 := by
  cases r with
  | failed c =>
    obtain ⟨t, rfl⟩ := mayEnd_failed h
    exact validate_le t
  | _ => exact (by decide : errOk.toNat ≤ 9)

/-! ### The invariant -/

@[simp] theorem takeCommand_frame_isSome (s : State) (c : Byte) : (s.takeCommand c).frame.isSome = s.frame.isSome := by
  unfold State.takeCommand
  split <;> simp [*]

@[simp] theorem settle_frame_isSome (s : State) : s.settle.frame.isSome = s.frame.isSome := by
  unfold State.settle
  split
  · split <;> simp
  · rfl

/-- Whether the sequencer is legal depends on the snapshot and on the word it holds, not on its place in the rule. -/
theorem SequencerLegal.congr {s t : State} (h : SequencerLegal s) (hsnap : t.snap = s.snap)
    (hseq : t.seq.map Sequencer.word = s.seq.map Sequencer.word) : SequencerLegal t := by
  intro q hq
  rw [hq, Option.map_some, eq_comm, Option.map_eq_some_iff] at hseq
  obtain ⟨q', hq', hw⟩ := hseq
  rw [hsnap, ← hw]
  exact h q' hq'

/-- One line event keeps the invariant where it keeps R22 and R23. -/
theorem Invariant.event {s t : State} (h : Invariant s) (e : LineEvent) (hp : t.pads = s.pads.after e)
    (htr : t.trace = s.trace ++ [e]) (herr : t.err = s.err) (hsnap : t.snap = s.snap)
    (hseq : t.seq.map Sequencer.word = s.seq.map Sequencer.word) (hce : CeClkOutputs t) (hfr : FrameNeedsCe t) :
    Invariant t where
  padsFollowTrace := by
    have := h.padsFollowTrace
    unfold PadsFollowTrace at this ⊢
    rw [hp, htr, this, Pads.replay, Pads.replay, List.foldl_append]
    rfl
  ceClkOutputs := hce
  errNotReserved := by
    unfold ErrNotReserved
    rw [herr]
    exact h.errNotReserved
  frameNeedsCe := hfr
  sequencerLegal := h.sequencerLegal.congr hsnap hseq

/-- The invariant speaks of these fields only. -/
theorem Invariant.congr {s t : State} (h : Invariant s) (hp : t.pads = s.pads) (htr : t.trace = s.trace)
    (herr : ErrNotReserved t) (hfr : t.frame.isSome = s.frame.isSome) (hq : SequencerLegal t) : Invariant t where
  padsFollowTrace := by
    have := h.padsFollowTrace
    unfold PadsFollowTrace at this ⊢
    rw [hp, htr, this]
  ceClkOutputs := by
    unfold CeClkOutputs
    rw [hp]
    exact h.ceClkOutputs
  errNotReserved := herr
  frameNeedsCe := by
    unfold FrameNeedsCe
    rw [hp, hfr]
    exact h.frameNeedsCe
  sequencerLegal := hq

theorem Invariant.setDir {s : State} (h : Invariant s) (l : Line) (d : Dir) (hd : l = .dio ∨ d = .output) :
    Invariant (s.setDir l d) := by
  obtain ⟨hce, hclk⟩ := h.ceClkOutputs
  have hce' : CeClkOutputs (s.setDir l d) := by
    obtain rfl | rfl := hd
    · exact ⟨by simpa using hce, by simpa using hclk⟩
    · cases l <;> exact ⟨by simp [hce], by simp [hclk]⟩
  refine h.event (.setDir l d) (by simp [Pads.after]) (by simp) (by simp) (by simp)
    (by simp [Function.comp_def]) hce' fun hf => ⟨?_, hce'.1⟩
  have := (h.frameNeedsCe (by simpa using hf)).1
  cases l <;> simpa using this

/-- CE low closes the frame (R22); no other level change opens one. -/
theorem setLevel_frame_isSome {s : State} {l : Line} {v : Level} (hf : (s.setLevel l v).frame.isSome = true) :
    s.frame.isSome = true ∧ (l = .ce → v = true) := by
  rw [← settle_frame_isSome]
  cases hs : s.settle.frame with
  | none => simp [hs] at hf
  | some f =>
    refine ⟨rfl, ?_⟩
    rintro rfl
    simp only [State.setLevel_frame, hs, Option.bind_some, Frame.see] at hf
    cases v <;> simp_all

theorem Invariant.setLevel {s : State} (h : Invariant s) (l : Line) (v : Level) (hv : l ≠ .ce ∨ v = false) :
    Invariant (s.setLevel l v) := by
  obtain ⟨hce, hclk⟩ := h.ceClkOutputs
  have hce' : CeClkOutputs (s.setLevel l v) := by cases l <;> exact ⟨by simpa using hce, by simpa using hclk⟩
  refine h.event (.setLevel l v) (by simp [Pads.after]) (by simp) (by simp) (by simp)
    (by simp [Function.comp_def]) hce' fun hf => ⟨?_, hce'.1⟩
  obtain ⟨hsf, hv'⟩ := setLevel_frame_isSome hf
  have := (h.frameNeedsCe hsf).1
  cases l <;> simp_all

theorem Invariant.openFrame {s : State} (h : Invariant s) (c : Byte) (kind : FrameKind) :
    Invariant (s.openFrame c kind) := by
  obtain ⟨hce, hclk⟩ := h.ceClkOutputs
  exact h.event (.setLevel .ce true) (by simp [Pads.after]) (by simp) (by simp) (by simp)
    (by simp [Function.comp_def]) ⟨by simpa using hce, by simpa using hclk⟩ fun _ => ⟨by simp, by simpa using hce⟩

theorem Invariant.wait {s : State} (h : Invariant s) (n : Nat) : Invariant (s.wait n) := by
  refine h.event (.delay n) (by simp [Pads.after]) (by simp) (by simp) (by simp)
    (by simp [Function.comp_def]) ?_ ?_
  · simpa [CeClkOutputs] using h.ceClkOutputs
  · simpa [FrameNeedsCe] using h.frameNeedsCe

theorem Invariant.sampled {s : State} (h : Invariant s) (b : Level) : Invariant (s.settle.sampled b) := by
  refine h.event (.sample b) (by simp [Pads.after]) (by simp) (by simp) (by simp)
    (by simp [Function.comp_def]) ?_ ?_
  · simpa [CeClkOutputs] using h.ceClkOutputs
  · simpa [FrameNeedsCe] using h.frameNeedsCe

theorem Invariant.complete {s : State} (h : Invariant s) {i : Instr} {r : OpResult} (hr : mayEnd i r) :
    Invariant (s.complete r) :=
  h.congr (by simp) (by simp) (.inl (by simpa using code_le_of_mayEnd hr)) (by simp) (by simp [SequencerLegal])

theorem Invariant.takeCommand {s : State} (h : Invariant s) (c : Byte) : Invariant (s.takeCommand c) :=
  h.congr (by simp) (by simp) (by simpa [ErrNotReserved] using h.errNotReserved) (by simp)
    (h.sequencerLegal.congr (by simp) (by simp))

theorem Invariant.request {s : State} (h : Invariant s) (v : Byte) : Invariant (s.request v) := by
  obtain hr | hr | ⟨i, hi, hr⟩ := request_cases s v <;> rw [hr]
  · exact h.congr rfl rfl h.errNotReserved rfl h.sequencerLegal
  · exact h.congr rfl rfl (.inr rfl) rfl h.sequencerLegal
  · refine h.congr rfl rfl (.inl (by decide : errOk.toNat ≤ 9)) rfl fun q hq => ?_
    cases hq
    exact ⟨legal_of_decodeWord hi, (argOf_opWord v s.arg).symm⟩

theorem Invariant.storeReg {s : State} (h : Invariant s) (a : Offset) (v : Byte) : Invariant (s.storeReg a v) := by
  rw [storeReg_frame]
  exact h.congr rfl rfl h.errNotReserved rfl h.sequencerLegal

theorem Invariant.blockReset (s : State) : Invariant s.blockReset where
  padsFollowTrace := rfl
  ceClkOutputs := ⟨rfl, rfl⟩
  errNotReserved := .inl (by simp)
  frameNeedsCe := by simp [FrameNeedsCe]
  sequencerLegal := by simp [SequencerLegal]

theorem Invariant.hostAct {s : State} (h : Invariant s) : Invariant s.hostAct := by
  have hi : ∀ rest, Invariant { s with inputs := rest } := fun _ =>
    h.congr rfl rfl h.errNotReserved rfl h.sequencerLegal
  obtain ha | ⟨m, rest, ⟨a, -, ha⟩ | ⟨v, -, ha⟩ | ⟨a, v, -, -, ha⟩ | ⟨-, ha⟩⟩ := hostAct_cases s <;> rw [ha]
  · exact h
  · exact (hi rest).congr rfl rfl (hi rest).errNotReserved rfl (hi rest).sequencerLegal
  · exact (hi rest).request v
  · exact (hi rest).storeReg a v
  · exact Invariant.blockReset _

theorem Invariant.exec {i : Instr} {s t : State} (h : Invariant s) (he : exec i s = .next t) : Invariant t :=
  exec_induct (I := Invariant) (fun _ l d hd h => h.setDir l d hd) (fun _ l v hv h => h.setLevel l v hv)
    (fun _ c kind h => h.openFrame c kind) (fun _ n h => h.wait n) (fun _ b h => h.sampled b)
    (fun _ _ hr h => h.complete hr) (fun _ c h => h.takeCommand c) h he

/-- Settles O56: whoever's step it is, what it does keeps the five properties. -/
theorem stepKeepsInv : Obligations.StepKeepsInv := by
  intro s t h hst
  obtain ⟨i, he⟩ | ⟨c, rfl⟩ | ⟨-, rfl⟩ := step_cases hst
  · exact h.exec he
  · exact h.takeCommand c
  · exact h.hostAct

/-! ### The trace -/

theorem request_trace (s : State) (v : Byte) : (s.request v).trace = s.trace := by
  obtain hr | hr | ⟨i, -, hr⟩ := request_cases s v
  · rw [hr]
  · rw [hr]
  · rw [hr, State.accept_trace]

theorem storeReg_trace (s : State) (a : Offset) (v : Byte) : (s.storeReg a v).trace = s.trace := by
  rw [storeReg_frame]

/-- An instruction only appends to the trace (R34). -/
theorem exec_trace_grows {i : Instr} {s t : State} (h : exec i s = .next t) : s.trace <+: t.trace :=
  exec_induct (I := fun t => s.trace <+: t.trace)
    (fun _ _ _ _ h => by simpa using h.trans (List.prefix_append _ _))
    (fun _ _ _ _ h => by simpa using h.trans (List.prefix_append _ _))
    (fun _ _ _ h => by simpa using h.trans (List.prefix_append _ _))
    (fun _ _ h => by simpa using h.trans (List.prefix_append _ _))
    (fun _ _ h => by simpa using h.trans (List.prefix_append _ _))
    (fun _ _ _ h => by simpa using h) (fun _ _ h => by simpa using h) List.prefix_rfl h

/-- Of the host's acts only the reset touches the trace. -/
theorem hostAct_trace (s : State) : s.hostAct.trace = s.trace ∨ ∃ m rest, s.inputs = ⟨m, .reset⟩ :: rest := by
  obtain ha | ⟨m, rest, ⟨a, -, ha⟩ | ⟨v, -, ha⟩ | ⟨a, v, -, -, ha⟩ | ⟨hi, -⟩⟩ := hostAct_cases s
  · exact .inl (by rw [ha])
  · exact .inl (by rw [ha]; rfl)
  · exact .inl (by rw [ha, request_trace])
  · exact .inl (by rw [ha, storeReg_trace])
  · exact .inr ⟨m, rest, hi⟩

/-- Settles O59: instructions append events, the host's acts other than the reset leave the trace. -/
theorem traceOnlyGrows : Obligations.TraceOnlyGrows := by
  intro s t h
  obtain ⟨i, he⟩ | ⟨c, rfl⟩ | ⟨ht, rfl⟩ := step_cases h
  · obtain ⟨es, hes⟩ := exec_trace_grows he
    exact .inl ⟨es, hes.symm⟩
  · exact .inl ⟨[], by simp⟩
  · obtain htr | hr := hostAct_trace s
    · exact .inl ⟨[], by simpa using htr⟩
    · exact .inr ⟨ht, hr⟩

/-! ### The host registers -/

/-- What instruction `i` leaves of the host registers (R28 to R32), of the snapshot (R35), and of the model's own log of
reads and parameters. -/
structure WritesOnly (i : Instr) (s t : State) : Prop where
  arg : t.arg = s.arg
  data : t.data = s.data
  ovr : t.ovr = s.ovr
  snap : t.snap = s.snap
  reads : t.reads = s.reads
  params : t.params = s.params
  result : i ≠ .rdbits → (∀ c, i ≠ .rdbyte c) → i ∉ fieldReads → t.result = s.result
  tr : i ≠ .gettime → t.tr = s.tr
  buf : i ≠ .rdburstClock → i ≠ .rdburstRam → t.buf = s.buf

/-- What an instruction writes at its completion. -/
theorem writeResult_writesOnly {i : Instr} {r : OpResult} (h : mayEnd i r) (s : State) :
    WritesOnly i s (s.writeResult r) := by
  refine ⟨by simp, by simp, by simp, by simp, by simp, by simp, ?_, ?_, ?_⟩
  · intro h1 h2 h3
    cases r with
    | value v => obtain hi | ⟨c, hi⟩ | hi := mayEnd_value h <;> simp_all
    | _ => rfl
  · intro h1
    cases r with
    | record x => exact absurd (mayEnd_record h) h1
    | _ => rfl
  · intro h1 h2
    cases r with
    | bytes bs => obtain hi | hi := mayEnd_bytes h <;> contradiction
    | _ => rfl

theorem WritesOnly.trans {i : Instr} {s t u : State} (h : WritesOnly i s t) (h' : WritesOnly i t u) :
    WritesOnly i s u where
  arg := h'.arg.trans h.arg
  data := h'.data.trans h.data
  ovr := h'.ovr.trans h.ovr
  snap := h'.snap.trans h.snap
  reads := h'.reads.trans h.reads
  params := h'.params.trans h.params
  result h1 h2 h3 := (h'.result h1 h2 h3).trans (h.result h1 h2 h3)
  tr h1 := (h'.tr h1).trans (h.tr h1)
  buf h1 h2 := (h'.buf h1 h2).trans (h.buf h1 h2)

theorem exec_writesOnly {i : Instr} {s t : State} (h : exec i s = .next t) : WritesOnly i s t :=
  exec_induct (I := WritesOnly i s)
    (fun _ _ _ _ h => h.trans (by constructor <;> simp))
    (fun _ _ _ _ h => h.trans (by constructor <;> simp))
    (fun _ _ _ h => h.trans (by constructor <;> simp))
    (fun _ _ h => h.trans (by constructor <;> simp))
    (fun _ _ h => h.trans (by constructor <;> simp))
    (fun x r hr h =>
      have hw := writeResult_writesOnly hr x
      h.trans ⟨hw.arg, hw.data, hw.ovr, hw.snap, hw.reads, hw.params, hw.result, hw.tr, hw.buf⟩)
    (fun _ _ h => h.trans (by constructor <;> simp))
    (by constructor <;> simp) h

/-- Settles O58: the primitives of a rule write none of these, and its completion only what the instruction returns. -/
theorem instructionsWriteOnly : Obligations.InstructionsWriteOnly := by
  intro i s t h
  obtain ⟨harg, hdata, hovr, hsnap, hreads, hparams, hresult, htr, hbuf⟩ := exec_writesOnly h
  exact ⟨harg, hdata, hovr, hsnap, hreads, hparams, hresult, htr, hbuf⟩

end Sys2Proof.Machine
end

section
/-! PROOFS. One line event of the controller (10_state.md R33), and what a host act between two events can and cannot do to
the running operation (R35). -/

namespace Sys2Proof.Machine

/-! ### One controller step -/

/-- The bit an event sampled, if it is a sample. -/
def LineEvent.bits : LineEvent → List Level
  | .sample b => [b]
  | _ => []

/-- One line event of the controller: the rule that stands before it, the state, the event, the rule and the state after it.
The event that brings DIO to rest stands at the end of the rule (log entry 22). -/
inductive Prog.Moves : Prog OpResult → State → LineEvent → Prog OpResult → State → Prop
  | setDir (l : Line) (d : Dir) (k : Prog OpResult) (s : State) :
      Prog.Moves (.setDir l d k) s (.setDir l d) k (s.setDir l d)
  | setLevel (l : Line) (v : Level) (k : Prog OpResult) (s : State) :
      Prog.Moves (.setLevel l v k) s (.setLevel l v) k (s.setLevel l v)
  | openFrame (c : Byte) (kind : FrameKind) (k : Prog OpResult) (s : State) :
      Prog.Moves (.openFrame c kind k) s (.setLevel .ce true) k (s.openFrame c kind)
  | delay (n : Nat) (k : Prog OpResult) (s : State) : Prog.Moves (.delay n k) s (.delay n) k (s.wait n)
  | sample (k : Level → Prog OpResult) (s : State) {b : Level} (hb : s.settle.dioLevel = b) :
      Prog.Moves (.sample k) s (.sample b) (k b) (s.settle.sampled b)
  | rest (r : OpResult) (s : State) (hr : r.code = errOk ∧ s.lowersDio = true) :
      Prog.Moves (.ret r) s (.setLevel .dio false) (.ret r) (s.setLevel .dio false)

/-- With a host act due the operation stands still. -/
theorem advance_of_hostDue {s : State} (h : s.hostDue = true) (p : Prog OpResult) : p.advance s = s := by
  cases p <;> simp [Prog.advance, h]

/-- With none due the controller goes on from the state after the event. -/
theorem Prog.Moves.advance {p k : Prog OpResult} {s t : State} {e : LineEvent} (h : p.Moves s e k t)
    (hd : s.hostDue = false) : p.advance s = k.advance t := by
  cases h with
  | rest r _ hr => rw [advance_ret_lowers hr]; simp [Prog.advance, hd]
  | sample k _ hb => simp [Prog.advance, hd, hb]
  | _ => simp [Prog.advance, hd]

/-- With none due the controller has a line event, or it completes. -/
theorem moves_or_completes (p : Prog OpResult) (s : State) :
    (∃ e k t, p.Moves s e k t) ∨ ∃ r, p = .ret r ∧ ¬(r.code = errOk ∧ s.lowersDio = true) := by
  cases p with
  | ret r =>
    by_cases hr : r.code = errOk ∧ s.lowersDio = true
    · exact .inl ⟨_, _, _, .rest r s hr⟩
    · exact .inr ⟨r, rfl, hr⟩
  | setDir l d k => exact .inl ⟨_, _, _, .setDir l d k s⟩
  | setLevel l v k => exact .inl ⟨_, _, _, .setLevel l v k s⟩
  | openFrame c kind k => exact .inl ⟨_, _, _, .openFrame c kind k s⟩
  | delay n k => exact .inl ⟨_, _, _, .delay n k s⟩
  | sample k => exact .inl ⟨_, _, _, .sample k s rfl⟩

/-- Induction along a run: it stands still where a host act is due, it completes, or it has an event and runs on. -/
theorem advance_run_induct {M : Prog OpResult → State → State → Prop}
    (hstop : ∀ p s, s.hostDue = true → M p s s)
    (hend : ∀ r s, s.hostDue = false → ¬(r.code = errOk ∧ s.lowersDio = true) → M (.ret r) s (s.complete r))
    (hmove : ∀ p s e k t u, s.hostDue = false → p.Moves s e k t → M k t u → M p s u) (p : Prog OpResult) (s : State) :
    M p s (p.advance s) := by
  have hret : ∀ r (s : State), ¬(r.code = errOk ∧ s.lowersDio = true) → M (.ret r) s ((Prog.ret r).advance s) := by
    intro r s hr
    cases hd : s.hostDue with
    | true => rw [advance_of_hostDue hd]; exact hstop _ s hd
    | false =>
      rw [advance_ret_stays hr, hd]
      exact hend r s hd hr
  have hgo : ∀ {p s e k t}, p.Moves s e k t → M k t (k.advance t) → M p s (p.advance s) := by
    intro p s e k t h hk
    cases hd : s.hostDue with
    | true => rw [advance_of_hostDue hd]; exact hstop _ s hd
    | false => rw [h.advance hd]; exact hmove p s e k t _ hd h hk
  induction p generalizing s with
  | ret r =>
    by_cases hr : r.code = errOk ∧ s.lowersDio = true
    · exact hgo (.rest r s hr) (hret r _ (by simp [State.lowersDio]))
    · exact hret r s hr
  | setDir l d k ih => exact hgo (.setDir l d k s) (ih _)
  | setLevel l v k ih => exact hgo (.setLevel l v k s) (ih _)
  | openFrame c kind k ih => exact hgo (.openFrame c kind k s) (ih _)
  | delay n k ih => exact hgo (.delay n k s) (ih _)
  | sample k ih => exact hgo (.sample k s rfl) (ih _ _)

section
variable {p k : Prog OpResult} {s t : State} {e : LineEvent} (h : p.Moves s e k t)
include h

theorem Prog.Moves.trace : t.trace = s.trace ++ [e] := by cases h <;> simp
theorem Prog.Moves.inputs : t.inputs = countDown s.inputs := by cases h <;> simp
theorem Prog.Moves.operands : t.operands = s.operands := by cases h <;> simp [State.operands]

/-- The sequencer's place after the event (R33). -/
theorem Prog.Moves.seq :
    t.seq = s.seq.map fun q => { q with next := q.next + 1, samples := q.samples ++ e.bits } := by
  cases h <;> simp [LineEvent.bits]

/-- The rule after the event is what the sequencer's place says. -/
theorem Prog.Moves.resume (n : Nat) (bs : List Level) : p.resume (n + 1) (e.bits ++ bs) = k.resume n bs := by
  cases h with
  | rest => cases n <;> rfl
  | _ => rfl

/-- What an operation may end with the rest of it may end with. -/
theorem Prog.Moves.keeps {Q : OpResult → Prop} (hp : p.Keeps Q) : k.Keeps Q := by
  cases h with
  | setDir | setLevel => exact hp.2
  | sample => exact hp _
  | openFrame | delay | rest => exact hp

end

/-! ### One event per step (R33, R34) -/

/-- No operation word decodes to a command byte's instruction. -/
theorem encode_ne_of_decodeWord {w : OpWord} {i : Instr} (h : decodeWord w = .ok i) (c : Byte) : encode i ≠ .wireCmd8 c := by
  unfold decodeWord at h
  split at h
  case h_5 => unfold decodeRdburst at h; split at h <;> cases h <;> nofun
  case h_6 => unfold decodeWrburst at h; split at h <;> cases h <;> nofun
  case h_7 => unfold decodeRdfield at h; split at h <;> cases h <;> nofun
  case h_8 => unfold decodeWrfield at h; split at h <;> cases h <;> nofun
  all_goals cases h <;> nofun

/-- The instruction of an operation word runs its rule. -/
theorem exec_operation {w : OpWord} {i : Instr} (h : decodeWord w = .ok i) :
    ∃ rule : Params → Snapshot → Prog OpResult, ∀ s, exec i s = s.operate rule := by
  obtain ⟨rule, hrule, -⟩ | ⟨c, hc, -⟩ := exec_cases i
  · exact ⟨rule, hrule⟩
  · exact absurd hc (encode_ne_of_decodeWord h c)

theorem operate_running {s : State} {q : Sequencer} (hq : s.seq = some q) (rule : Params → Snapshot → Prog OpResult) :
    s.operate rule = .next (((rule s.params s.snap).resume q.next q.samples).advance s) := by
  simp only [State.operate, hq]

/-- Where a host act is due one step later, the run is one event long, or it is the completion. -/
theorem advance_one_step {s : State} {act : HostAct} {rest : List HostInput} (hi : s.inputs = ⟨.afterSteps 1, act⟩ :: rest)
    (p : Prog OpResult) : (∃ e k, p.Moves s e k (p.advance s)) ∨ ∃ r, p.advance s = s.complete r := by
  have hd : s.hostDue = false := by simp [State.hostDue, hi]
  obtain ⟨e, k, t, h⟩ | ⟨r, rfl, hr⟩ := moves_or_completes p s
  · have ht : t.hostDue = true := by simp [State.hostDue, h.inputs, hi, countDown]
    rw [h.advance hd, advance_of_hostDue ht]
    exact .inl ⟨e, k, h⟩
  · exact .inr ⟨r, by rw [advance_ret_stays hr, hd]; rfl⟩

/-- Settles O10: the run up to the host act is one event or the completion. -/
theorem oneEventPerStep : Obligations.OneEventPerStep := by
  intro i s t q act rest hq hw hi he
  obtain ⟨rule, hrule⟩ := exec_operation hw
  rw [hrule, operate_running hq] at he
  cases he
  obtain ⟨e, k, h⟩ | ⟨r, hr⟩ := advance_one_step hi ((rule s.params s.snap).resume q.next q.samples)
  · refine ⟨by rw [h.inputs, hi]; rfl, .inr ⟨e, h.trace, ?_⟩⟩
    rw [h.seq, hq]
    cases e <;> rfl
  · rw [hr]
    exact ⟨by rw [State.complete_inputs, hi]; rfl, .inl ⟨by simp, by simp⟩⟩

/-! ### The host's side of the state -/

/-- `s` with the host's read/write registers and the host acts to come replaced: what a host can set while an operation
runs (R25, log entry 3). -/
def State.withHost (s : State) (o : Snapshot) (is : List HostInput) : State :=
  { s with arg := o.arg, data := o.data, tr := o.tr, buf := o.buf, inputs := is }

section
variable (s : State) (o : Snapshot) (is : List HostInput)

theorem withHost_frame : (s.withHost o is).frame = s.frame := rfl

theorem takeCommand_withHost (c : Byte) : (s.withHost o is).takeCommand c = (s.takeCommand c).withHost o is := by
  unfold State.takeCommand
  cases hf : s.frame <;> simp [State.withHost, hf]

theorem settle_withHost : (s.withHost o is).settle = s.settle.withHost o is := by
  simp only [State.settle, withHost_frame, takeCommand_withHost]
  split
  · split <;> rfl
  · rfl

theorem setDir_withHost (l : Line) (d : Dir) :
    (s.withHost o is).setDir l d = (s.setDir l d).withHost o (countDown is) := by
  simp only [State.setDir, settle_withHost]; rfl

theorem setLevel_withHost (l : Line) (v : Level) :
    (s.withHost o is).setLevel l v = (s.setLevel l v).withHost o (countDown is) := by
  simp only [State.setLevel, settle_withHost]; rfl

theorem openFrame_withHost (c : Byte) (kind : FrameKind) :
    (s.withHost o is).openFrame c kind = (s.openFrame c kind).withHost o (countDown is) := by
  simp only [State.openFrame, settle_withHost]; rfl

theorem wait_withHost (n : Nat) : (s.withHost o is).wait n = (s.wait n).withHost o (countDown is) := by
  simp only [State.wait, settle_withHost]; rfl

theorem sampled_withHost (b : Level) : (s.withHost o is).sampled b = (s.sampled b).withHost o (countDown is) := rfl

theorem dioLevel_withHost : (s.withHost o is).dioLevel = s.dioLevel := rfl

end

/-- No event reads the host's side, or writes it but for the count of steps. -/
theorem Prog.Moves.withHost {p k : Prog OpResult} {s t : State} {e : LineEvent} (h : p.Moves s e k t) (o : Snapshot)
    (is : List HostInput) : p.Moves (s.withHost o is) e k (t.withHost o (countDown is)) := by
  cases h with
  | setDir l d => rw [← setDir_withHost]; exact .setDir l d k _
  | setLevel l v => rw [← setLevel_withHost]; exact .setLevel l v k _
  | openFrame c kind => rw [← openFrame_withHost]; exact .openFrame c kind k _
  | delay n => rw [← wait_withHost]; exact .delay n k _
  | sample k _ hb =>
    rw [← sampled_withHost, ← settle_withHost]
    exact .sample k _ (by rw [settle_withHost, dioLevel_withHost, hb])
  | rest r _ hr => rw [← setLevel_withHost]; exact .rest r _ hr

theorem Prog.Moves.withInputs {p k : Prog OpResult} {s t : State} {e : LineEvent} (h : p.Moves s e k t)
    (is : List HostInput) : p.Moves { s with inputs := is } e k { t with inputs := countDown is } := by
  have hs := h.withHost s.operands is
  have ht : t.withHost s.operands (countDown is) = { t with inputs := countDown is } := by rw [← h.operands]; rfl
  rwa [ht] at hs

/-! ### An operation that stopped goes on (R33, R35) -/

/-- The run from `s` to `u` of the rule `p` stopped where the sequencer says what is left of `p`, and that, run on with the
host acts `is` to come, ends as `p` does from the start; or the run completed. -/
def Resumes (is : List HostInput) (p : Prog OpResult) (s u : State) : Prop :=
  ∀ q, s.seq = some q → u.seq = none ∨ ∃ n bs,
    u.seq = some { q with next := q.next + n, samples := q.samples ++ bs } ∧
    (p.resume n bs).advance { u with inputs := is } = p.advance { s with inputs := is }

/-- Every run resumes, if no act of `is` lands inside the operation. -/
theorem advance_resumes {is : List HostInput} (hquiet : ∀ s : State, ({ s with inputs := is } : State).quiet = true)
    (p : Prog OpResult) (s : State) : Resumes is p s (p.advance s) := by
  induction p, s using advance_run_induct with
  | hstop p s hd =>
    intro q hq
    refine .inr ⟨0, [], by simp [hq], ?_⟩
    cases p <;> rfl
  | hend r s hd hr => exact fun q _ => .inl (State.complete_seq s r)
  | hmove p s e k t u hd h ih =>
    intro q hq
    refine (ih _ (by rw [h.seq, hq]; rfl)).imp_right ?_
    rintro ⟨n, bs, hu, hrun⟩
    refine ⟨n + 1, e.bits ++ bs, by simp [hu, Nat.add_comm, Nat.add_left_comm], ?_⟩
    have h' : p.Moves { s with inputs := is } e k { t with inputs := is } := by
      have := h.withInputs is
      rwa [show countDown is = is from countDown_of_quiet (hquiet s)] at this
    rw [h.resume, hrun, h'.advance (hostDue_of_quiet (hquiet s))]

/-- Settles O11: what is left of the rule where the sequencer stands is the rest of the same run. -/
theorem resumesWhereItStopped : Obligations.ResumesWhereItStopped := by
  intro i s t w n act rest hw hs hi hquiet he hne
  obtain ⟨rule, hrule⟩ := exec_operation hw
  have hsnap := (exec_writesOnly he).snap
  have hparams := (exec_writesOnly he).params
  rw [hrule, operate_started hs] at he
  cases he
  obtain hnone | ⟨m, bs, hseq, hrun⟩ := advance_resumes (is := rest) (fun _ => hquiet) (rule s.params s.snap) s _ hs
  · exact absurd hnone hne
  · simp only [Nat.zero_add, List.nil_append] at hseq
    rw [hrule, hrule, operate_running (s := { (rule s.params s.snap).advance s with inputs := rest }) hseq,
      operate_started (s := { s with inputs := rest }) hs]
    simp only [hsnap, hparams] at hrun ⊢
    rw [hrun]

/-! ### A host store does not reach the operation (R35, R75) -/

/-- A store as a change of the host's side. -/
theorem storeReg_withHost (s : State) (a : Offset) (v : Byte) :
    s.storeReg a v = s.withHost (s.storeReg a v).operands s.inputs := by
  rw [storeReg_frame]; rfl

/-- With the values `o` on the host's side the run from `s` to `u` of the rule `p` stops in the same place, or completes in
the same place `x` with the same result. -/
def RunsAlike (Q : OpResult → Prop) (o : Snapshot) (p : Prog OpResult) (s u : State) : Prop :=
  (u.seq.isSome = s.seq.isSome ∧ p.advance (s.withHost o s.inputs) = u.withHost o u.inputs) ∨
    ∃ (r : OpResult) (x : State), Q r ∧ u = x.complete r ∧
      p.advance (s.withHost o s.inputs) = (x.withHost o x.inputs).complete r

theorem advance_runsAlike {Q : OpResult → Prop} (o : Snapshot) (p : Prog OpResult) (s : State) :
    p.Keeps Q → RunsAlike Q o p s (p.advance s) := by
  induction p, s using advance_run_induct with
  | hstop p s hd => exact fun _ => .inl ⟨rfl, advance_of_hostDue (s := s.withHost o s.inputs) hd p⟩
  | hend r s hd hr =>
    refine fun hQ => .inr ⟨r, s, hQ, rfl, ?_⟩
    have hd' : (s.withHost o s.inputs).hostDue = false := hd
    rw [advance_ret_stays (s := s.withHost o s.inputs) hr, hd', if_neg Bool.false_ne_true]
  | hmove p s e k t u hd h ih =>
    intro hp
    have hrun : p.advance (s.withHost o s.inputs) = k.advance (t.withHost o t.inputs) := by
      rw [h.inputs]
      exact (h.withHost o s.inputs).advance hd
    unfold RunsAlike
    rw [hrun, show s.seq.isSome = t.seq.isSome by rw [h.seq, Option.isSome_map]]
    exact ih (h.keeps hp)

/-- Two states that differ in what the host stored and in nothing the operation shows. -/
structure SameRun (s t : State) : Prop where
  pads : t.pads = s.pads
  trace : t.trace = s.trace
  result : t.result = s.result
  err : t.err = s.err
  seq : t.seq = s.seq
  frame : t.frame = s.frame
  periph : t.periph = s.periph
  draws : t.draws = s.draws
  inputs : t.inputs = s.inputs

theorem withHost_sameRun (s : State) (o : Snapshot) : SameRun s (s.withHost o s.inputs) := by constructor <;> rfl

theorem complete_withHost_sameRun (s : State) (o : Snapshot) (r : OpResult) :
    SameRun (s.complete r) ((s.withHost o s.inputs).complete r) := by
  cases r <;> constructor <;> rfl

/-- The bytes a burst read wrote are the same whatever the buffer held. -/
theorem putFrom_byte_congr {bs : List Byte} (b b' : Buffer) {k : Nat} (hk : k < bs.length) (hk' : k ≤ 30) :
    (b.putFrom 0 bs).byte k = (b'.putFrom 0 bs).byte k := by
  rw [putFrom_byte bs hk', putFrom_byte bs hk', if_pos (by omega), if_pos (by omega)]

/-- What is left of a rule depends on the parameters, the snapshot and the sequencer only. -/
theorem operate_same_rule {rule : Params → Snapshot → Prog OpResult} {Q : OpResult → Prop}
    (h : ∀ P S, (rule P S).Keeps Q) (s : State) (o : Snapshot) :
    ∃ p : Prog OpResult, p.Keeps Q ∧ s.operate rule = .next (p.advance s) ∧
      (s.withHost o s.inputs).operate rule = .next (p.advance (s.withHost o s.inputs)) := by
  cases hq : s.seq with
  | none => exact ⟨rule s.params s.snap, h _ _, by simp only [State.operate, hq], by
      simp only [State.operate, State.withHost, hq]⟩
  | some q => exact ⟨(rule s.params s.snap).resume q.next q.samples, keeps_resume _ _ _ (h _ _), operate_running hq rule,
      operate_running (s := s.withHost o s.inputs) hq rule⟩

/-- What a completed GETTIME or RDBURST returned is the same in both states (R31, R32). -/
structure SameReturn (i : Instr) (t t' : State) : Prop where
  record : i = .gettime → t'.tr = t.tr
  clock : i = .rdburstClock → ∀ k, k < 9 → t'.buf.byte k = t.buf.byte k
  ram : i = .rdburstRam → ∀ k, k < 31 → t'.buf.byte k = t.buf.byte k

theorem complete_sameReturn {i : Instr} {r : OpResult} (h : mayEnd i r) (x y : State) :
    SameReturn i (x.complete r) (y.complete r) := by
  constructor <;> rintro rfl
  · obtain ⟨t, rfl⟩ := h
    rfl
  · obtain ⟨bs, hl, rfl⟩ := h
    exact fun k hk => putFrom_byte_congr _ _ (by rw [hl]; exact hk) (by omega)
  · obtain ⟨bs, hl, rfl⟩ := h
    exact fun k hk => putFrom_byte_congr _ _ (by rw [hl]; exact hk) (by omega)

/-- An instruction with other values on the host's side. -/
theorem exec_withHost {i : Instr} {s t : State} (o : Snapshot) (h : exec i s = .next t) :
    ∃ t', exec i (s.withHost o s.inputs) = .next t' ∧ SameRun t t' ∧
      (s.seq ≠ none → t.seq = none → SameReturn i t t') := by
  obtain ⟨rule, hrule, hk⟩ | ⟨c, -, hc⟩ := exec_cases i
  · obtain ⟨p, hp, hs, hs'⟩ := operate_same_rule hk s o
    rw [hrule, hs] at h
    cases h
    refine ⟨_, (hrule _).trans hs', ?_⟩
    obtain ⟨hseq, hrun⟩ | ⟨r, x, hr, hx, hrun⟩ := advance_runsAlike o p s hp
    · rw [hrun]
      exact ⟨withHost_sameRun _ o, fun hne hnone => absurd (by simpa [hnone] using hseq.symm) hne⟩
    · rw [hx, hrun]
      exact ⟨complete_withHost_sameRun x o r, fun _ _ => complete_sameReturn hr _ _⟩
  · rw [hc] at h
    cases h
    refine ⟨_, hc _, ?_⟩
    rw [takeCommand_withHost, ← State.takeCommand_inputs s c]
    exact ⟨withHost_sameRun _ o, fun hne hnone => absurd (by simpa using hnone) hne⟩

/-- Settles O60: a store is a change of the host's side, with which a run stops or completes in the same place, and what it
returns does not depend on what stood there. -/
theorem snapshotIsolates : Obligations.SnapshotIsolates := by
  intro i s t a v he
  rw [storeReg_withHost]
  obtain ⟨t', he', hsame, hret⟩ := exec_withHost (s.storeReg a v).operands he
  obtain ⟨hpads, htrace, hresult, herr, hseq, hframe, hperiph, hdraws, hinputs⟩ := hsame
  refine ⟨t', he', hpads, htrace, hresult, herr, hseq, hframe, hperiph, hdraws, hinputs, fun hne hnone => ?_⟩
  obtain ⟨hrecord, hclock, hram⟩ := hret hne hnone
  exact ⟨hrecord, hclock, hram⟩

end Sys2Proof.Machine
end

section
/-! PROOFS. The host's accesses: loads, stores, an accepted request, STATUS (10_state.md R24 to R27), and the step that runs
the accepted operation (R33). -/

namespace Sys2Proof.Machine

/-! ### Offsets -/

/-- An offset by its number. -/
theorem exists_offset (a : Offset) : ∃ k, k < 64 ∧ a = BitVec.ofNat 6 k := ⟨a.toNat, a.isLt, by simp⟩

theorem offset_ne_iff {j k : Nat} (hj : j < 64) (hk : k < 64) : BitVec.ofNat 6 j ≠ BitVec.ofNat 6 k ↔ j ≠ k := by
  rw [ne_eq, BitVec.toNat_eq, BitVec.toNat_ofNat, BitVec.toNat_ofNat, Nat.mod_eq_of_lt hj, Nat.mod_eq_of_lt hk]

/-! ### Loads (R24, R25) -/

/-- Settles O15: the next state is a load's, and the value is read off offset by offset. -/
theorem hostLoad : Obligations.HostLoad := by
  intro s m a rest ht hi
  refine ⟨s.hostReg a, ?_, ?_⟩
  · rw [step_host ht, State.hostAct, hi]
    rfl
  · obtain ⟨k, hk, rfl⟩ := exists_offset a
    interval_cases k <;> rfl

/-! ### Stores (R24, R25, R61) -/

/-- The time-record register at offset 6 + n (R24, R31). -/
def TimeRecord.byte (r : TimeRecord) : Nat → Byte
  | 0 => r.sec
  | 1 => r.min
  | 2 => r.hour
  | 3 => r.date
  | 4 => r.month
  | 5 => r.year
  | 6 => r.wday
  | 7 => r.fmt
  | _ => r.mer

/-- The time record with the register at offset 6 + n set. -/
def TimeRecord.put (r : TimeRecord) (n : Nat) (v : Byte) : TimeRecord :=
  match n with
  | 0 => { r with sec := v }
  | 1 => { r with min := v }
  | 2 => { r with hour := v }
  | 3 => { r with date := v }
  | 4 => { r with month := v }
  | 5 => { r with year := v }
  | 6 => { r with wday := v }
  | 7 => { r with fmt := v }
  | _ => { r with mer := v }

theorem TimeRecord.byte_put (r : TimeRecord) {n j : Nat} (v : Byte) (hn : n ≤ 8) (hj : j ≤ 8) :
    (r.put n v).byte j = if j = n then v else r.byte j := by
  interval_cases n <;> interval_cases j <;> rfl

/-- A store to a time-record register (R31). -/
theorem storeReg_record (s : State) (v : Byte) {n : Nat} (h : 6 ≤ n) (h' : n ≤ 0xE) :
    s.storeReg (BitVec.ofNat 6 n) v = { s with tr := s.tr.put (n - 6) v } := by
  interval_cases n <;> rfl

/-- A store to RESULT, STATUS or a reserved offset (R25). -/
theorem storeReg_ignored (s : State) (v : Byte) {n : Nat} (hn : n < 64)
    (h : n = 3 ∨ n = 4 ∨ n = 5 ∨ n = 0xF ∨ 0x2F ≤ n) : s.storeReg (BitVec.ofNat 6 n) v = s := by
  obtain rfl | rfl | rfl | rfl | h := h
  iterate 4 rfl
  interval_cases n <;> rfl

theorem hostReg_buffer (s : State) {n : Nat} (h : 0x10 ≤ n) (h' : n ≤ 0x2E) :
    s.hostReg (BitVec.ofNat 6 n) = s.buf.byte (n - 0x10) := by
  interval_cases n <;> rfl

theorem hostReg_record (s : State) {n : Nat} (h : 6 ≤ n) (h' : n ≤ 0xE) :
    s.hostReg (BitVec.ofNat 6 n) = s.tr.byte (n - 6) := by
  interval_cases n <;> rfl

theorem hostReg_with_tr (s : State) {k : Nat} (hk : k < 64) (r : TimeRecord) :
    ({ s with tr := r } : State).hostReg (BitVec.ofNat 6 k) =
      if 6 ≤ k ∧ k ≤ 0xE then r.byte (k - 6) else s.hostReg (BitVec.ofNat 6 k) := by
  interval_cases k <;> rfl

/-- The host's acts to come are not in a host register. -/
theorem hostReg_with_inputs (s : State) (is : List HostInput) (a : Offset) :
    ({ s with inputs := is } : State).hostReg a = s.hostReg a := rfl

/-- The offsets of the host registers other than OPC by what a store does at them. -/
theorem offset_cases {n : Nat} (h : n ≠ 0) :
    n = 1 ∨ n = 2 ∨ (6 ≤ n ∧ n ≤ 0xE) ∨ (0x10 ≤ n ∧ n ≤ 0x2E) ∨ (n = 3 ∨ n = 4 ∨ n = 5 ∨ n = 0xF ∨ 0x2F ≤ n) := by
  omega

/-- A read/write register reads back what was stored. -/
theorem hostReg_storeReg_self (s : State) (v : Byte) {n : Nat}
    (h : n = 1 ∨ n = 2 ∨ (6 ≤ n ∧ n ≤ 0xE) ∨ (0x10 ≤ n ∧ n ≤ 0x2E)) :
    (s.storeReg (BitVec.ofNat 6 n) v).hostReg (BitVec.ofNat 6 n) = v := by
  obtain rfl | rfl | ⟨h1, h2⟩ | ⟨h1, h2⟩ := h
  · rfl
  · rfl
  · rw [storeReg_record s v h1 h2, hostReg_record _ h1 h2, TimeRecord.byte_put s.tr v (by omega) (by omega),
      if_pos rfl]
  · rw [storeReg_buffer s v h1 h2, hostReg_buffer _ h1 h2, byte_put_self _ v (by omega)]

/-- A store reaches no other offset. -/
theorem hostReg_storeReg_ne (s : State) (v : Byte) {n k : Nat} (h0 : n ≠ 0) (hn : n < 64) (hk : k < 64) (h : k ≠ n) :
    (s.storeReg (BitVec.ofNat 6 n) v).hostReg (BitVec.ofNat 6 k) = s.hostReg (BitVec.ofNat 6 k) := by
  obtain rfl | rfl | ⟨h1, h2⟩ | ⟨h1, h2⟩ | hig := offset_cases h0
  · exact hostReg_with_arg s hk v h
  · exact hostReg_with_data s hk v h
  · rw [storeReg_record s v h1 h2, hostReg_with_tr s hk]
    split
    · rw [TimeRecord.byte_put s.tr v (by omega) (by omega), if_neg (by omega), hostReg_record s (by omega) (by omega)]
    · rfl
  · rw [storeReg_buffer s v h1 h2, hostReg_with_buf s hk]
    split
    · rw [byte_put_ne s.buf v (by omega), hostReg_buffer s (by omega) (by omega)]
    · rfl
  · rw [storeReg_ignored s v hn hig]

/-- The host's turn with a store to an offset other than OPC. -/
theorem step_store {s : State} {m : When} {a : Offset} {v : Byte} {rest : List HostInput} (ht : s.turn = .host)
    (hi : s.inputs = ⟨m, .store a v⟩ :: rest) (ha : a ≠ 0) :
    step s = .next ({ s with inputs := rest }.storeReg a v) := by
  rw [step_host ht, State.hostAct, hi]
  exact congrArg _ (if_neg ha)

/-- Settles O16: by the four kinds of offset. -/
theorem hostStore : Obligations.HostStore := by
  intro s m a v rest ht hi ha
  refine ⟨_, step_store ht hi ha, storeReg_frame _ a v, ?_, ?_, ?_⟩
  all_goals
    obtain ⟨n, hn, rfl⟩ := exists_offset a
    have h0 : n ≠ 0 := (offset_ne_iff hn (by omega)).mp ha
  · intro h
    apply hostReg_storeReg_self
    simpa [BitVec.toNat_eq, Nat.mod_eq_of_lt hn] using h
  · intro h
    apply storeReg_ignored _ v hn
    simpa [BitVec.toNat_eq, Nat.mod_eq_of_lt hn] using h
  · intro b hb
    obtain ⟨k, hk, rfl⟩ := exists_offset b
    rw [hostReg_storeReg_ne _ v h0 hn hk ((offset_ne_iff hk hn).mp hb), hostReg_with_inputs]

/-! ### Requests and STATUS -/

/-- Settles O12: a request with BUSY = 0 and a legal word is the acceptance. -/
theorem requestAccepted : Obligations.RequestAccepted := by
  intro s m v rest i ht hi hq hw
  have hacc : ({ s with inputs := rest } : State).request v =
      ({ s with inputs := rest } : State).accept (opWord v s.arg) := by
    simp only [State.request, State.busy, hq, hw, Option.isSome_none, Bool.false_eq_true, if_false]
  rw [step_host ht, State.hostAct, hi]
  exact congrArg _ hacc

/-- STATUS bit by bit (R27). -/
theorem status_getLsbD (s : State) {n : Nat} (hn : n < 8) :
    s.status.getLsbD n =
      if n = 0 then s.busy else if n = 1 then s.ovr else if n < 4 then false else s.err.getLsbD (n - 4) := by
  change (s.err ++ (0 : BitVec 2) ++ BitVec.ofBool s.ovr ++ BitVec.ofBool s.busy : BitVec (4 + 2 + 1 + 1)).getLsbD n = _
  simp only [BitVec.getLsbD_append, BitVec.getLsbD_ofBool]
  interval_cases n <;> simp

/-- Settles O17: the four fields are the bits of STATUS. -/
theorem statusLayout : Obligations.StatusLayout := by
  intro s
  refine ⟨?_, status_getLsbD s (by omega), status_getLsbD s (by omega), status_getLsbD s (by omega), ?_⟩
  · rw [status_getLsbD s (by omega), if_pos rfl, State.busy, Option.isSome_iff_ne_none]
  · apply BitVec.eq_of_getLsbD_eq
    intro j hj
    rw [BitVec.getLsbD_extractLsb', status_getLsbD s (by omega), if_neg (by omega), if_neg (by omega),
      if_neg (by omega), Nat.add_sub_cancel_left, decide_eq_true hj, Bool.true_and]

/-! ### The controller's step -/

theorem step_controller {s : State} {q : Sequencer} {i : Instr} (hf : ∀ f, s.frame = some f → f.turn = false)
    (hd : s.hostDue = false) (hq : s.seq = some q) (hw : decodeWord q.word = .ok i) : step s = exec i s := by
  simp only [step, turn_controller hf hd hq, hw]

/-- A row of 16 bits is read as an operation word. -/
theorem decodeTableWord_operation {w : Nat} {i : Instr} :
    decodeTableWord 16 w = some i ↔ decodeWord (BitVec.ofNat 16 w) = .ok i := by
  cases h : decodeWord (BitVec.ofNat 16 w) <;> simp [decodeTableWord, h, Except.toOption]

/-- Settles O7: it is the controller's turn, and an operation word placed for it is one it has just accepted. -/
theorem stepRunsOperation : Obligations.StepRunsOperation := by
  refine ⟨fun s q i hf hd hq hw => step_controller hf hd hq hw, fun s w i hi => ?_⟩
  have hw := decodeTableWord_operation.mp hi
  exact ⟨step_controller nofun rfl rfl hw, ⟨_, hw, rfl⟩, rfl, rfl⟩

end Sys2Proof.Machine
end

section
/-! PROOFS. The command bytes of the peripheral map (20_memory.md R62, R63, 42_burst_transport.md R150), and what the
reference peripheral makes of each of them in the four kinds of frame (R86 to R90). -/

namespace Sys2Proof.Machine

/-! ### The map -/

/-- `c` is the command byte of clock register `i` in the given direction (R62, R63). -/
structure RegisterCommand (c : Byte) (reads : Bool) (i : Nat) : Prop where
  direction : cmdReads c = reads
  space : cmdSpace c = 2
  index : cmdIdx c = i
  le : i ≤ 8

theorem registerCommand_readCmd {r : MapRow} (hr : r ∈ registerMap) : RegisterCommand r.readCmd true r.index := by
  have h : ∀ r ∈ registerMap, cmdReads r.readCmd = true ∧ cmdSpace r.readCmd = 2 ∧ cmdIdx r.readCmd = r.index ∧
      r.index ≤ 8 := by decide
  obtain ⟨hd, hs, hi, hle⟩ := h r hr
  exact ⟨hd, hs, hi, hle⟩

/-- The write command of a register is its read command with bit 0 cleared. -/
theorem asWrite_readCmd {r : MapRow} (hr : r ∈ registerMap) : asWrite r.readCmd = r.writeCmd := by
  revert r; decide

theorem RegisterCommand.asWrite {c : Byte} {b : Bool} {i : Nat} (h : RegisterCommand c b i) :
    RegisterCommand (asWrite c) false i := by
  obtain ⟨hr, hs, hi⟩ := asWrite_facts c
  exact ⟨hr, hs.trans h.space, hi.trans h.index, h.le⟩

theorem registerCommand_writeCmd {r : MapRow} (hr : r ∈ registerMap) : RegisterCommand r.writeCmd false r.index :=
  asWrite_readCmd hr ▸ (registerCommand_readCmd hr).asWrite

theorem encode_read {r : MapRow} (hr : r ∈ registerMap) : encode r.read = .wireCmd8 r.readCmd := by
  revert r; decide

theorem encode_write {r : MapRow} (hr : r ∈ registerMap) : encode r.write = .wireCmd8 r.writeCmd := by
  revert r; decide

theorem toNat_of_mem_registerMap {r : MapRow} (hr : r ∈ registerMap) :
    r.readCmd.toNat = 128 + 2 * r.index + 1 ∧ r.writeCmd.toNat = 128 + 2 * r.index := by
  revert r; decide

theorem decodeCommand_of_encode {i : Instr} {c : Byte} (h : encode i = .wireCmd8 c) : decodeCommand c = .ok i := by
  cases i <;> cases h <;> rfl

/-- The list of R63 and R150 and the decoder agree on every byte. -/
theorem listedCommand_eq : ∀ c : Byte, listedCommand c = (decodeCommand c).toOption.isSome := by decide +kernel

/-- Settles O5: each row decodes because its instructions encode to its bytes, whose bits lie as R62 says. -/
theorem commandMap : Obligations.CommandMap := by
  refine ⟨fun r hr => ?_, ⟨rfl, rfl, rfl, rfl, rfl, rfl, rfl, rfl⟩, fun c => ?_⟩
  · obtain ⟨hrd, hrs, hri, -⟩ := registerCommand_readCmd hr
    obtain ⟨hwd, hws, hwi, -⟩ := registerCommand_writeCmd hr
    obtain ⟨hrn, hwn⟩ := toNat_of_mem_registerMap hr
    exact ⟨decodeCommand_of_encode (encode_read hr), decodeCommand_of_encode (encode_write hr), hrn, hwn, hrd, hwd, hri,
      hwi, hrs, hws⟩
  · rw [listedCommand_eq]
    cases decodeCommand c <;> simp [Except.toOption]

/-! ### The registers that a command reaches -/

section
variable {c : Byte} {i : Nat} (rp : RefPeripheral)

/-- The first response byte is the register, any further one a draw (R86). -/
theorem respByte_register (h : RegisterCommand c true i) :
    rp.respByte c = fun k => if k = 0 then some (rp.reg i) else none := by
  funext k
  obtain ⟨hr, hs, hi, hle⟩ := h
  have h31 : i ≠ 31 := by omega
  simp [RefPeripheral.respByte, hr, hs, hi, hle, h31]

theorem respByte_clockBurst (hr : cmdReads c = true) (hs : cmdSpace c = 2) (hi : cmdIdx c = 31) :
    rp.respByte c = fun k => if k ≤ 8 then some (rp.reg k) else none := by
  funext k
  simp [RefPeripheral.respByte, hr, hs, hi]

/-- A single write is gated by WP, register 7 excepted (R87). -/
theorem write_register (h : RegisterCommand c false i) (v : Byte) :
    rp.write c v = if i = 7 ∨ (rp.reg 7).getLsbD 7 = false then rp.setReg i v else rp := by
  obtain ⟨hr, hs, hi, hle⟩ := h
  simp only [RefPeripheral.write, hr, hs, hi, hle, gate_iff, Bool.false_eq_true, and_self, if_true, if_false]

/-- A burst write takes burst commands only (R88). -/
theorem burstWrite_register (h : RegisterCommand c false i) (ds : List Byte) : rp.burstWrite c ds = rp := by
  obtain ⟨-, -, hi, hle⟩ := h
  have h31 : cmdIdx c ≠ 31 := by omega
  simp [RefPeripheral.burstWrite, h31]

/-- A mismatched command of one register writes one draw, whatever the length of the frame (R90). -/
theorem mismatch_register (h : RegisterCommand c false i) (n d : Nat) :
    rp.mismatch c n d =
      if i = 7 ∨ (rp.reg 7).getLsbD 7 = false then rp.setReg i (Config.freeByte d) else rp := by
  have h31 : cmdIdx c ≠ 31 := by have := h.index; have := h.le; omega
  rw [RefPeripheral.mismatch, if_neg h31, write_register rp h]

/-- A single write takes no burst command (R87). -/
theorem write_burst (hi : cmdIdx c = 31) (v : Byte) : rp.write c v = rp := by
  simp [RefPeripheral.write, hi]

/-- A burst write with the clock-burst command writes the bytes from register 0 on (R88). -/
theorem burstWrite_clockBurst (ds : List Byte) : rp.burstWrite 0xBE ds = rp.burstClock 0 ds := rfl

end

/-! ### The reference peripheral in the four kinds of frame -/

section
variable {rp : RefPeripheral} {c : Byte} {f : Frame} {n d : Nat}

/-- A read frame is answered (R86). -/
theorem act_read_in_readFrame (hr : cmdReads c = true) (hk : f.kind = .rd ∧ n = 1 ∨ f.kind = .brd n) :
    rp.act c f d = ⟨{ f with turn := false, resp := (List.range n).map (rp.respByte c) }, .reference rp, d⟩ := by
  obtain ⟨hk, rfl⟩ | hk := hk <;> simp [RefPeripheral.act, hk, hr, FrameKind.bytesIn]

/-- A write command in a single read frame (R90). -/
theorem act_write_in_rd (hr : cmdReads c = false) (hk : f.kind = .rd) :
    rp.act c f d = ⟨{ f with turn := false }, .reference (rp.mismatch c 1 d), d + 1⟩ := by
  simp [RefPeripheral.act, hk, hr, FrameKind.bytesIn]

/-- A single write frame is taken (R87). -/
theorem act_write_in_wr {v : Byte} (hr : cmdReads c = false) (hk : f.kind = .wr v) :
    rp.act c f d = ⟨{ f with turn := false }, .reference (rp.write c v), d⟩ := by
  simp [RefPeripheral.act, hk, hr]

/-- A burst write frame is taken (R88). -/
theorem act_write_in_bwr {ds : List Byte} (hr : cmdReads c = false) (hk : f.kind = .bwr ds) :
    rp.act c f d = ⟨{ f with turn := false }, .reference (rp.burstWrite c ds), d⟩ := by
  simp [RefPeripheral.act, hk, hr]

/-- A read command in a write frame is ignored under one of the two readings (R90, log entry 21). -/
theorem act_read_ignored (hr : cmdReads c = true) (hst : rp.strayRead = .ignored)
    (hk : (∃ v, f.kind = .wr v) ∨ ∃ ds, f.kind = .bwr ds) :
    rp.act c f d = ⟨{ f with turn := false }, .reference rp, d⟩ := by
  obtain ⟨v, hk⟩ | ⟨ds, hk⟩ := hk <;> simp [RefPeripheral.act, RefPeripheral.stray, hk, hr, hst]

/-- Under the other it is a mismatched write command (93_implementation_defined.md U4, log entry 21). -/
theorem act_read_drawn (hr : cmdReads c = true) (hst : rp.strayRead = .drawn)
    (hk : (∃ v, f.kind = .wr v) ∧ n = 1 ∨ ∃ ds, f.kind = .bwr ds ∧ ds.length = n) :
    rp.act c f d = ⟨{ f with turn := false }, .reference (rp.mismatch (asWrite c) n d), d + n⟩ := by
  obtain ⟨⟨v, hk⟩, rfl⟩ | ⟨ds, hk, rfl⟩ := hk <;> simp [RefPeripheral.act, RefPeripheral.stray, hk, hr, hst]

end

/-! ### Command instructions on the reference peripheral -/

section
variable {i : Instr} {c : Byte} {s : State} {f g : Frame} {rp rp' : RefPeripheral} {d : Nat}

/-- A command instruction in an open frame is the reference peripheral's act on its byte. -/
theorem exec_command_reference (hc : encode i = .wireCmd8 c) (hf : s.frame = some f) (hp : s.periph = .reference rp)
    (h : rp.act c f s.draws = ⟨g, .reference rp', d⟩) :
    exec i s = .next { s with frame := some g, periph := .reference rp', draws := d } := by
  simp only [exec_command hc, State.takeCommand, hf, hp, Peripheral.act, h]

/-- An act that leaves the registers and the draws as they are. -/
theorem exec_command_frame_only (hc : encode i = .wireCmd8 c) (hf : s.frame = some f) (hp : s.periph = .reference rp)
    (h : rp.act c f s.draws = ⟨g, .reference rp, s.draws⟩) : exec i s = .next { s with frame := some g } := by
  rw [exec_command_reference hc hf hp h, ← hp]

end

/-! ### The statements -/

/-- Settles O46: a read frame is answered byte by byte, the first byte being the register. -/
theorem cmdReadAnswers : Obligations.CmdReadAnswers := by
  intro r hr s f rp n hf hk hp
  have hc := registerCommand_readCmd hr
  rw [exec_command_frame_only (encode_read hr) hf hp (act_read_in_readFrame hc.direction hk),
    respByte_register rp hc]

/-- Settles O48: a read frame is answered byte by byte, byte k being register k up to 8. -/
theorem cmdClockBurstReads : Obligations.CmdClockBurstReads := by
  intro s f rp n hf hk hp
  rw [exec_command_frame_only (c := 0xBF) rfl hf hp (act_read_in_readFrame rfl hk),
    respByte_clockBurst rp rfl rfl rfl]

/-- Settles O47: the single write meets the gate, and a burst write takes no command of one register. -/
theorem cmdWriteTakes : Obligations.CmdWriteTakes := by
  intro r hr s f rp hf hp
  have hc := registerCommand_writeCmd hr
  constructor
  · intro d hk
    rw [exec_command_reference (encode_write hr) hf hp (act_write_in_wr hc.direction hk), write_register rp hc]
  · intro ds hk
    refine exec_command_frame_only (encode_write hr) hf hp ?_
    rw [act_write_in_bwr hc.direction hk, burstWrite_register rp hc]

/-- Settles O49: a burst write frame is `burstClock`, byte 7 of which decides on byte 8, and a single write takes no
burst command. -/
theorem cmdClockBurstWrites : Obligations.CmdClockBurstWrites := by
  intro s f rp hf hp
  constructor
  · intro ds hk hlen
    have h := burstClock_nine rp ds hlen
    rw [← burstWrite_clockBurst] at h
    exact ⟨_, exec_command_reference rfl hf hp (act_write_in_bwr rfl hk), h⟩
  · intro d hk
    refine exec_command_frame_only (c := 0xBE) rfl hf hp ?_
    rw [act_write_in_wr rfl hk, write_burst rp rfl]

/-- Settles O50: a mismatched command of one register is a gated write of one draw, or it is ignored. -/
theorem cmdMismatch : Obligations.CmdMismatch := by
  intro s f rp hf hp
  refine ⟨fun r hr hk => ?_, fun hst hk => ⟨fun r hr => ?_, ?_⟩, fun hst n hk r hr => ?_⟩
  · have hc := registerCommand_writeCmd hr
    rw [exec_command_reference (encode_write hr) hf hp (act_write_in_rd hc.direction hk), mismatch_register rp hc]
  · exact exec_command_frame_only (encode_read hr) hf hp
      (act_read_ignored (registerCommand_readCmd hr).direction hst hk)
  · exact exec_command_frame_only (c := 0xBF) rfl hf hp (act_read_ignored rfl hst hk)
  · have hc := registerCommand_readCmd hr
    rw [exec_command_reference (encode_read hr) hf hp (act_read_drawn hc.direction hst hk),
      mismatch_register rp hc.asWrite]

end Sys2Proof.Machine
end

section
/-! PROOFS. The decode procedure and the encoder (30_encoding.md R100 to R107): the ids of blocks and fields, the operation
word by OPC byte, and the two directions between words and instructions. -/

namespace Sys2Proof.Machine

/-! ### Block ids and field ids (R103, R104) -/

theorem decodeRdburst_eq (a : Byte) :
    decodeRdburst a =
      if a = 0 then .ok .rdburstClock else if a = 1 then .ok .rdburstRam else .error .illegalBlock := by
  unfold decodeRdburst
  split <;> simp_all [BitVec.toNat_eq]

theorem decodeWrburst_eq (a : Byte) :
    decodeWrburst a =
      if a = 0 then .ok .wrburstClock else if a = 1 then .ok .wrburstRam else .error .illegalBlock := by
  unfold decodeWrburst
  split <;> simp_all [BitVec.toNat_eq]

/-- RDFIELD looks its field id up in the list of R103. -/
theorem decodeRdfield_eq (a : Byte) :
    decodeRdfield a = fieldReads[a.toNat]?.elim (.error .illegalField) .ok := by
  unfold decodeRdfield
  split
  case h_14 =>
    simp only [imp_false] at *
    rw [List.getElem?_eq_none (l := fieldReads) (show 13 ≤ a.toNat by omega), Option.elim_none]
  all_goals next h => rw [h]; rfl

/-- WRFIELD looks its field id up in the list of R103. -/
theorem decodeWrfield_eq (a : Byte) :
    decodeWrfield a = fieldWrites[a.toNat]?.elim (.error .illegalField) .ok := by
  unfold decodeWrfield
  split
  case h_14 =>
    simp only [imp_false] at *
    rw [List.getElem?_eq_none (l := fieldWrites) (show 13 ≤ a.toNat by omega), Option.elim_none]
  all_goals next h => rw [h]; rfl

/-! ### The operation word (R107) -/

/-- Settles O2: one case for each OPC byte the decoder names, and the remaining ones; an id is looked up as R103 and R104
list it. -/
theorem decodeProcedure : Obligations.DecodeProcedure := by
  intro opc arg
  unfold decodeWord
  rw [opcOf_opWord, argOf_opWord]
  split
  case h_7 h =>
    obtain rfl : opc = 7 := BitVec.eq_of_toNat_eq h
    rw [decodeRdfield_eq]
    cases fieldReads[arg.toNat]? <;> rfl
  case h_8 h =>
    obtain rfl : opc = 8 := BitVec.eq_of_toNat_eq h
    rw [decodeWrfield_eq]
    cases fieldWrites[arg.toNat]? <;> rfl
  case h_11 => simp_all [BitVec.toNat_eq]
  all_goals next h => simp [BitVec.toNat_eq, h, decodeRdburst_eq, decodeWrburst_eq]

/-! ### From an instruction to its word and back -/

/-- A word is its OPC byte and its ARG byte (R100). -/
theorem exists_opWord (w : OpWord) : ∃ o a, w = opWord o a := ⟨_, _, (opWord_opcOf_argOf w).symm⟩

/-- The operation words decode to what they encode. -/
theorem decodeWord_of_encode {i : Instr} {w : OpWord} (h : encode i = .op16 w) : decodeWord w = .ok i := by
  cases i <;> cases h
  case wrbits b => exact decodeProcedure 0x01 b
  case rdbyte c => exact decodeProcedure 0x03 c
  case wrbyte c => exact decodeProcedure 0x04 c
  all_goals rfl

/-- Settles O1: an instruction encodes to an operation word or to a command byte, and each of the two decodes. -/
theorem decodeEncode : Obligations.DecodeEncode := by
  intro i _
  cases h : encode i with
  | op16 w => exact decodeWord_of_encode h
  | wireCmd8 c => exact decodeCommand_of_encode h

/-- Where each entry of a list encodes to OPC `o` and its own position, so does the entry that an ARG byte looks up. -/
theorem encode_of_lookup {o a : Byte} {is : List Instr} {i : Instr}
    (hall : ∀ k (hk : k < is.length), encode is[k] = .op16 (opWord o (BitVec.ofNat 8 k))) (h : is[a.toNat]? = some i) :
    encode i = .op16 (opWord o a) := by
  obtain ⟨hk, rfl⟩ := List.getElem?_eq_some_iff.mp h
  simpa using hall a.toNat hk

/-- Settles O4: the decode procedure read backwards; only the three operations without an operand lose their ARG byte. -/
theorem legalWordsEncode : Obligations.LegalWordsEncode := by
  intro w i h
  obtain ⟨o, a, rfl⟩ := exists_opWord w
  rw [decodeProcedure o a] at h
  rw [opcOf_opWord]
  split_ifs at h with h1 h2 h3 h4 h5 ha0 ha1 h6 ha0 ha1 h7 h8 h9 h10 <;> subst o
  · cases h; exact .inl rfl
  · cases h; exact .inr ⟨.inl rfl, rfl⟩
  · cases h; exact .inl rfl
  · cases h; exact .inl rfl
  · cases h; subst a; exact .inl rfl
  · cases h; subst a; exact .inl rfl
  · cases h; subst a; exact .inl rfl
  · cases h; subst a; exact .inl rfl
  · split at h <;> cases h
    next hf => exact .inl (encode_of_lookup (by decide) hf)
  · split at h <;> cases h
    next hf => exact .inl (encode_of_lookup (by decide) hf)
  · cases h; exact .inr ⟨.inr (.inl rfl), rfl⟩
  · cases h; exact .inr ⟨.inr (.inr rfl), rfl⟩

/-! ### Illegal words (R106) -/

/-- The three grounds of R106 on natural numbers. -/
theorem illegalWord_iff (o a : Byte) :
    illegalWord o a = true ↔
      (o.toNat = 0 ∨ 11 ≤ o.toNat) ∨ (o.toNat = 5 ∨ o.toNat = 6) ∧ 2 ≤ a.toNat ∨
        (o.toNat = 7 ∨ o.toNat = 8) ∧ 13 ≤ a.toNat := by
  simp [illegalWord, BitVec.toNat_eq, or_assoc]

/-- What the decoder refuses is illegal, on one of the three grounds. -/
theorem illegal_of_decodeWord {w : OpWord} {why : Reject} (h : decodeWord w = .error why) :
    illegalWord (opcOf w) (argOf w) = true := by
  obtain ⟨o, a, rfl⟩ := exists_opWord w
  rw [decodeProcedure o a] at h
  rw [opcOf_opWord, argOf_opWord, illegalWord_iff]
  split_ifs at h with h1 h2 h3 h4 h5 ha0 ha1 h6 ha0 ha1 h7 h8 h9 h10
  · exact .inr (.inl (by bv_omega))
  · exact .inr (.inl (by bv_omega))
  · split at h <;> cases h
    next hf => exact .inr (.inr ⟨.inl (congrArg BitVec.toNat h7), List.getElem?_eq_none_iff.mp hf⟩)
  · split at h <;> cases h
    next hf => exact .inr (.inr ⟨.inr (congrArg BitVec.toNat h8), List.getElem?_eq_none_iff.mp hf⟩)
  · exact .inl (by bv_omega)

/-- Settles O3: the decoder accepts legal words only and refuses illegal ones only. -/
theorem illegalWords : Obligations.IllegalWords := by
  intro w
  constructor
  · intro hill
    cases h : decodeWord w with
    | error why => exact ⟨why, rfl⟩
    | ok i => simp [legal_of_decodeWord h] at hill
  · rintro ⟨why, h⟩
    exact illegal_of_decodeWord h

/-- Settles O6: the eight legal words are the encodings of their instructions, the other two name no field and no
operation. -/
theorem sampleWords : Obligations.SampleWords := by
  refine ⟨?_, ?_, ?_, ?_, ?_, ?_, ?_, ?_, ?_, ?_⟩
  case refine_9 => exact decodeProcedure 0x07 13
  case refine_10 => exact decodeProcedure 0x0B 0
  all_goals exact decodeWord_of_encode rfl

end Sys2Proof.Machine
end

section
/-! PROOFS. BitTransport: WRBITS and RDBITS outside any frame (40_bit_transport.md R130 to R134), and how an operation that has
just started comes to its end. -/

namespace Sys2Proof.Machine

/-! ### From the first event to the end -/

section
variable {i : Instr} {s : State} {es : List LineEvent} {P : Pads} {pe : Peripheral} {d : Nat}

/-- A started operation whose rule is one stretch ends as that stretch leaves it. -/
theorem Started.operate_runs (h : Started i s) {a : Prog OpResult → Prog OpResult} (ha : Runs a s es P pe d)
    (r : OpResult) {rule : Params → Snapshot → Prog OpResult} (hrule : rule s.params s.snap = a (.ret r)) :
    s.operate rule = .next ((s.writeResult r).ended es P pe d r.code) := by
  obtain ⟨w, -, hseq⟩ := h.1
  rw [operate_started hseq, hrule, ha.finish h.between]

/-- A started operation whose rule is one read ends with the result made of what was read. -/
theorem Started.operate_yields (h : Started i s) {β : Type} {a : (β → Prog OpResult) → Prog OpResult} {v : β}
    (ha : Yields a s es v P pe d) (r : β → OpResult) {rule : Params → Snapshot → Prog OpResult}
    (hrule : rule s.params s.snap = a fun x => .ret (r x)) :
    s.operate rule = .next ((s.writeResult (r v)).ended es P pe d (r v).code) := by
  obtain ⟨w, -, hseq⟩ := h.1
  rw [operate_started hseq, hrule, ha.finish h.between]

end

/-! ### The two rules (R132, R133) -/

theorem exec_wrbits (b : Byte) (s : State) :
    exec (.wrbits b) s = s.operate fun _ _ => shiftOut b (.ret .done) := rfl

theorem exec_rdbits (s : State) :
    exec .rdbits s = s.operate fun P _ => shiftIn P.samplePhase fun v => .ret (.value v) := rfl

/-! ### The two shifts outside a frame (R134) -/

theorem shiftOut_runs {s : State} (h : Between s) (b : Byte) :
    Runs (shiftOut b) s (shiftOutEvents b) { s.pads with clkLvl := false, dioLvl := b.getLsbD 7 } s.periph s.draws :=
  ⟨[], shiftOut_idle_advance h.1 h.2 b⟩

theorem shiftIn_yields {s : State} (h : Between s) (ph : SamplePhase) :
    Yields (shiftIn ph) s (shiftInEvents ph (oracleByte s.draws)) (oracleByte s.draws)
      { s.pads with clkLvl := false } s.periph (s.draws + 8) :=
  ⟨byteBits (oracleByte s.draws), shiftIn_idle_advance h.1 h.2 rfl ph⟩

/-! ### The statements -/

/-- Settles O21: the rule is one ShiftOut outside a frame, and nothing is written at completion. -/
theorem wrbitsShiftsOut : Obligations.WrbitsShiftsOut := by
  intro b s h
  rw [exec_wrbits]
  exact h.operate_runs (shiftOut_runs h.between b) .done rfl

/-- Settles O22: the rule is one ShiftIn outside a frame, whose byte goes to RESULT. -/
theorem rdbitsShiftsIn : Obligations.RdbitsShiftsIn := by
  intro s h
  rw [exec_rdbits]
  exact h.operate_yields (shiftIn_yields h.between s.params.samplePhase) .value rfl

end Sys2Proof.Machine
end

section
/-! PROOFS. ByteTransport: RDBYTE and WRBYTE, one frame each (41_byte_transport.md R142 to R145), and what the reference
peripheral makes of any command byte in a frame of one byte (20_memory.md R86, R87, R90). -/

namespace Sys2Proof.Machine

/-! ### The reference peripheral in a frame of one byte -/

section
variable (rp : RefPeripheral) {c : Byte} (d : Nat)

/-- A read command leaves the registers as they are (R86). -/
theorem taken_read (hr : cmdReads c = true) : (Peripheral.reference rp).taken c .rd d = .reference rp := by
  simp [Peripheral.taken, hr]

/-- What is read is the first byte the peripheral lays out (R86). -/
theorem reads_of_respByte {b : Byte} (hr : cmdReads c = true) (h : rp.respByte c 0 = some b) :
    (Peripheral.reference rp).reads c d = b := by
  simp [Peripheral.reads, Peripheral.lays, answerByte, hr, h]

/-- A write command in a read frame lays out nothing: its own draw goes first, the eight samples follow it (R90). -/
theorem reads_mismatch (hr : cmdReads c = false) : (Peripheral.reference rp).reads c d = oracleByte (d + 1) := by
  simp [Peripheral.reads, Peripheral.lays, Peripheral.takenDraws, answerByte, hr]

theorem taken_mismatch (hr : cmdReads c = false) :
    (Peripheral.reference rp).taken c .rd d = .reference (rp.mismatch c 1 d) := by
  simp [Peripheral.taken, hr]

/-- A write command in a write frame is a write that draws nothing (R87). -/
theorem taken_write (hr : cmdReads c = false) (v : Byte) :
    (Peripheral.reference rp).taken c (.wr v) d = .reference (rp.write c v) ∧
      (Peripheral.reference rp).takenDraws c (.wr v) d = d := by
  simp [Peripheral.taken, Peripheral.takenDraws, hr]

/-- A read command in a write frame does nothing under one reading (R90, log entry 21). -/
theorem taken_stray_ignored (hr : cmdReads c = true) (hst : rp.strayRead = .ignored) (v : Byte) :
    (Peripheral.reference rp).taken c (.wr v) d = .reference rp ∧
      (Peripheral.reference rp).takenDraws c (.wr v) d = d := by
  simp [Peripheral.taken, Peripheral.takenDraws, RefPeripheral.stray, hr, hst]

/-- Under the other it is the mismatched write command of its register (93_implementation_defined.md U4, log entry 21). -/
theorem taken_stray_drawn (hr : cmdReads c = true) (hst : rp.strayRead = .drawn) (v : Byte) :
    (Peripheral.reference rp).taken c (.wr v) d = .reference (rp.mismatch (asWrite c) 1 d) := by
  simp [Peripheral.taken, RefPeripheral.stray, hr, hst]

/-- A single write whose command addresses no register and no RAM byte changes nothing (R87). -/
theorem write_no_target (h : cmdSpace c ≤ 1 ∨ cmdSpace c = 2 ∧ 9 ≤ cmdIdx c ∨ cmdSpace c = 3 ∧ cmdIdx c = 31) (v : Byte) :
    rp.write c v = rp := by
  have hreg : ¬(cmdSpace c = 0b10 ∧ cmdIdx c ≤ 8) := by omega
  have hram : ¬(cmdSpace c = 0b11 ∧ cmdIdx c ≤ 30) := by omega
  simp [RefPeripheral.write, hreg, hram]

end

/-! ### The two rules (R144, R145), and how a started one ends -/

theorem exec_rdbyte (c : Byte) (s : State) :
    exec (.rdbyte c) s = s.operate fun P _ => rdXfer P.samplePhase c fun v => .ret (.value v) := rfl

theorem exec_wrbyte (c : Byte) (s : State) :
    exec (.wrbyte c) s = s.operate fun _ S => wrXfer c S.data (.ret .done) := rfl

section
variable {c : Byte} {s : State}

theorem Started.rdbyte_completes (h : Started (.rdbyte c) s) :
    exec (.rdbyte c) s =
      .next { s.ended (rdXferEvents s.params.samplePhase c (s.periph.reads c s.draws)) (padsAfterRead c)
          (s.periph.taken c .rd s.draws) (s.periph.readDraws c s.draws) 0 with
        result := s.periph.reads c s.draws } := by
  rw [exec_rdbyte]
  exact h.operate_yields (rdXfer_yields h.between s.params.samplePhase c) .value rfl

theorem Started.wrbyte_completes (h : Started (.wrbyte c) s) :
    exec (.wrbyte c) s =
      .next (s.ended (wrXferEvents c s.snap.data) (padsAfterWrite s.snap.data)
        (s.periph.taken c (.wr s.snap.data) s.draws) (s.periph.takenDraws c (.wr s.snap.data) s.draws) 0) := by
  rw [exec_wrbyte]
  exact h.operate_runs (wrXfer_runs h.between c s.snap.data) .done rfl

end

/-! ### The statements -/

/-- Settles O23: the rule is one read frame, whose byte goes to RESULT; a read command is answered by `respByte`, and
a write command is a mismatch that draws the byte it writes. -/
theorem rdbyteReads : Obligations.RdbyteReads := by
  intro c s h
  refine ⟨_, _, _, h.rdbyte_completes, fun hp => ?_, fun rp hp hr => ?_, fun rp hp hr => ?_⟩
  · rw [hp]
    exact device_reads c s.draws
  · rw [hp]
    refine ⟨taken_read rp s.draws hr, fun hs hi => ?_, fun hs hi => reads_of_respByte rp s.draws hr ?_⟩
    · exact (reference_reads rp c s.draws hr hs rfl hi).1
    · simp [respByte_clockBurst rp hr hs hi]
  · rw [hp]
    refine ⟨⟨_, reads_mismatch rp s.draws hr⟩, fun hs hi => ?_⟩
    rw [taken_mismatch rp s.draws hr, mismatch_register rp ⟨hr, hs, rfl, hi⟩]

/-- Settles O24: the rule is one write frame with no guard; a write command is taken as the gate lets it, and a read
command is ignored or is the mismatched write command of its register. -/
theorem wrbyteWrites : Obligations.WrbyteWrites := by
  intro c s h
  refine ⟨_, _, h.wrbyte_completes, fun hp => ?_, fun rp hp => ?_⟩
  · rw [hp]
    exact device_taken c _ s.draws
  rw [hp]
  refine ⟨fun hr hst => ?ignored, fun hr hst hs hi => ?drawn, fun hr => ?draws, fun hr hs hi => ?register,
    fun hr hno => ?elsewhere⟩
  case ignored => exact taken_stray_ignored rp s.draws hr hst _
  case drawn =>
    have hc : RegisterCommand c true (cmdIdx c) := ⟨hr, hs, rfl, hi⟩
    rw [taken_stray_drawn rp s.draws hr hst, mismatch_register rp hc.asWrite]
  case draws => exact (taken_write rp s.draws hr _).2
  case register => rw [(taken_write rp s.draws hr _).1, write_register rp ⟨hr, hs, rfl, hi⟩]
  case elsewhere => rw [(taken_write rp s.draws hr _).1, write_no_target rp hno]

end Sys2Proof.Machine
end

section
/-! PROOFS. BurstTransport: the two burst reads and the two guarded burst writes (42_burst_transport.md R151 to R156), and
what the reference peripheral makes of a clock burst inside the guard (44_codec_write.md R201, 20_memory.md R88). -/

namespace Sys2Proof.Machine

/-! ### The four rules (R153 to R156) -/

theorem exec_rdburstClock (s : State) :
    exec .rdburstClock s = s.operate fun P _ => burstRdXfer P.samplePhase 0xBF 9 fun bs => .ret (.bytes bs) := rfl

theorem exec_rdburstRam (s : State) :
    exec .rdburstRam s = s.operate fun P _ => burstRdXfer P.samplePhase P.ramBurstRd 31 fun bs => .ret (.bytes bs) := rfl

theorem exec_wrburstClock (s : State) :
    exec .wrburstClock s = s.operate fun P S => burstWrXfer P 0xBE (S.buf.firstBytes 9) (.ret .done) := rfl

theorem exec_wrburstRam (s : State) :
    exec .wrburstRam s = s.operate fun P S => burstWrXfer P P.ramBurstWr (S.buf.firstBytes 31) (.ret .done) := rfl

/-! ### Burst reads -/

/-- BUF takes the bytes from 0 on and keeps the rest (R32). -/
theorem putFrom_zero_byte (buf : Buffer) (vs : List Byte) {k : Nat} (hk : k ≤ 30) :
    (buf.putFrom 0 vs).byte k = if k < vs.length then vs.getD k 0 else buf.byte k := by
  simp [putFrom_byte vs hk]

/-- A RAM-burst read command is answered with the 31 RAM bytes (R86). -/
theorem respByte_ramBurst (rp : RefPeripheral) {c : Byte} (hr : cmdReads c = true) (hs : cmdSpace c = 3)
    (hi : cmdIdx c = 31) : rp.respByte c = fun k => if k ≤ 30 then some (rp.ram k) else none := by
  funext k
  simp [RefPeripheral.respByte, hr, hs, hi]

theorem respByte_0xBF (rp : RefPeripheral) {k : Nat} (hk : k < 9) : rp.respByte 0xBF k = some (rp.reg k) :=
  (congrFun (respByte_clockBurst rp rfl rfl rfl) k).trans (if_pos (by omega))

theorem respByte_0xFF (rp : RefPeripheral) {k : Nat} (hk : k < 31) : rp.respByte 0xFF k = some (rp.ram k) :=
  (congrFun (respByte_ramBurst rp rfl rfl rfl) k).trans (if_pos (by omega))

/-- A started operation whose rule is one burst read of `n` bytes into BUF (R151, R32). -/
theorem Started.burstRead_completes {i : Instr} {s : State} (h : Started i s) (c : Byte) {n : Nat} (hn : n ≤ 31)
    {rule : Params → Snapshot → Prog OpResult} (hexec : exec i s = s.operate rule)
    (hrule : rule s.params s.snap = burstRdXfer s.params.samplePhase c n fun bs => .ret (.bytes bs)) :
    ∃ (vs : List Byte) (buf : Buffer) (pe : Peripheral) (d : Nat),
      exec i s =
        .next { s.ended (burstRdEvents s.params.samplePhase c vs) (padsAfterRead c) pe d 0 with buf := buf } ∧
      vs.length = n ∧ (∀ k, k < n → buf.byte k = vs.getD k 0) ∧
      (∀ k, n ≤ k → k ≤ 30 → buf.byte k = s.buf.byte k) ∧
      (s.periph = .device → pe = .device ∧ ∀ k, k < n → vs.getD k 0 = oracleByte (s.draws + 8 * k)) ∧
      ∀ rp, s.periph = .reference rp → cmdReads c = true →
        pe = .reference rp ∧ ∀ (m : Nat) (f : Nat → Byte), m ≤ n → (∀ k, k < m → rp.respByte c k = some (f k)) →
          ∀ k, k < m → vs.getD k 0 = f k := by
  obtain ⟨w, -, hseq⟩ := h.1
  obtain ⟨vs, pe, d, hrun, hlen, hdev, href⟩ := burstRead_finish h.between c n
  refine ⟨vs, s.buf.putFrom 0 vs, pe, d, ?_, hlen, fun k hk => ?_, fun k hk hk' => ?_, hdev, href⟩
  · rw [hexec, operate_started hseq, hrule, hrun]
  · rw [putFrom_zero_byte _ _ (by omega), if_pos (by omega)]
  · rw [putFrom_zero_byte _ _ hk', if_neg (by omega)]

/-- Settles O25: the rule is one burst read of nine bytes, which the reference peripheral answers with its registers. -/
theorem rdburstClockReads : Obligations.RdburstClockReads := by
  intro s h
  obtain ⟨vs, buf, pe, d, hend, hlen, hbuf, hkeep, hdev, href⟩ :=
    h.burstRead_completes 0xBF (by omega) (exec_rdburstClock s) rfl
  refine ⟨vs, buf, pe, d, hend, hlen, hbuf, hkeep, hdev, fun rp hp => ?_⟩
  obtain ⟨hpe, hvs⟩ := href rp hp rfl
  exact ⟨hpe, hvs 9 rp.reg (by omega) fun _ => respByte_0xBF rp⟩

/-- Settles O26: the rule is one burst read of 31 bytes; the clock-burst command is answered with nine registers and the
RAM-burst command with the whole RAM. -/
theorem rdburstRamReads : Obligations.RdburstRamReads := by
  intro s h
  obtain ⟨vs, buf, pe, d, hend, hlen, hbuf, -, hdev, href⟩ :=
    h.burstRead_completes s.params.ramBurstRd (by omega) (exec_rdburstRam s) rfl
  refine ⟨vs, buf, pe, d, hend, hlen, hbuf, hdev, fun rp hp => ⟨fun hc => ?clock, fun hc => ?ram⟩⟩
  all_goals rw [hc] at href
  case clock =>
    obtain ⟨hpe, hvs⟩ := href rp hp rfl
    exact ⟨hpe, hvs 9 rp.reg (by omega) fun _ => respByte_0xBF rp⟩
  case ram =>
    obtain ⟨hpe, hvs⟩ := href rp hp rfl
    exact ⟨hpe, hvs 31 rp.ram (by omega) fun _ => respByte_0xFF rp⟩

/-! ### Burst writes -/

/-- The reference peripheral `rp` has become `rp'` by a clock burst of the bytes `b` inside a guard that leaves `f` in the WP
register: byte 7 of the burst decides on byte 8 and is then overwritten (R88, R201). -/
def ClockBurstInGuard (rp rp' : RefPeripheral) (b : Nat → Byte) (f : Byte) : Prop :=
  (∀ k, k ≤ 6 → rp'.reg k = b k) ∧ rp'.reg 7 = f ∧
    rp'.reg 8 = (if (b 7).getLsbD 7 then rp.reg 8 else b 8) ∧ rp'.rpr = rp.rpr

/-- GuardBegin opens the gate, so that the burst is taken; GuardEnd overwrites its byte 7. -/
theorem clockBurstInGuard (rp : RefPeripheral) (b : Nat → Byte) {n : Nat} (hn : 9 ≤ n) (f : Byte) :
    ClockBurstInGuard rp (((rp.setReg 7 0).burstWrite 0xBE ((List.range n).map b)).setReg 7 f) b f := by
  have hbyte : ∀ k, k ≤ 8 → ((List.range n).map b).getD k 0 = b k := by
    intro k hk
    have hkn : k < n := by omega
    simp [hkn]
  have hopen : ((rp.setReg 7 0).reg 7).getLsbD 7 = false := by rw [reg_setReg_self rp 0 (by omega)]; rfl
  obtain ⟨hlow, -, h8, hram⟩ := burstClock_nine (rp.setReg 7 0) ((List.range n).map b) (by simpa using hn)
  rw [burstWrite_clockBurst]
  refine ⟨fun k hk => ?_, reg_setReg_self _ f (by omega), ?_, hram⟩
  · rw [reg_setReg_ne _ f (by omega), hlow k hk, hopen, hbyte k (by omega)]
    rfl
  · rw [reg_setReg_ne _ f (by omega), h8, hbyte 7 (by omega), hbyte 8 (by omega), reg_setReg_ne rp 0 (by omega)]

/-- A started operation whose rule is one guarded burst write of S_BUF[0..n-1] (R152). -/
theorem Started.burstWrite_completes {i : Instr} {s : State} (h : Started i s) (c : Byte) {n : Nat} (hn : 9 ≤ n)
    (hn' : n ≤ 31) {rule : Params → Snapshot → Prog OpResult} (hexec : exec i s = s.operate rule)
    (hrule : rule s.params s.snap = burstWrXfer s.params c (s.snap.buf.firstBytes n) (.ret .done)) :
    ∃ wp pe d,
      exec i s =
        .next (s.ended (guardedEvents s.params wp (burstWrEvents c ((List.range n).map s.snap.buf.byte)))
          (padsAfterWrite (guardRestores s.params wp <<< 7)) pe d 0) ∧
      (s.periph = .device → pe = .device) ∧
      ∀ rp, s.periph = .reference rp → c = 0xBE →
        ∃ rp', pe = .reference rp' ∧ d = s.draws ∧ (s.params.wpRestore = .restorePrior → wp = rp.reg 7) ∧
          ClockBurstInGuard rp rp' s.snap.buf.byte (guardRestores s.params wp <<< 7) := by
  rw [hexec]
  rw [firstBytes_eq _ hn'] at hrule
  have hne : (List.range n).map s.snap.buf.byte ≠ [] := by
    rw [ne_eq, List.map_eq_nil_iff, List.range_eq_nil]
    omega
  obtain ⟨wp, pe, d, hrun, hdev, href⟩ := burstWrXfer_runs h.between c hne
  refine ⟨wp, pe, d, h.operate_runs hrun .done hrule, hdev, fun rp hp hc => ?_⟩
  subst hc
  obtain ⟨rp', htaken, hwp, hpe⟩ := href rp hp
  obtain ⟨rfl, hd⟩ := htaken rfl
  exact ⟨_, hpe, hd, hwp, clockBurstInGuard rp _ hn _⟩

/-- Settles O27: the rule is one guarded burst write of nine bytes with the clock-burst command. -/
theorem wrburstClockWrites : Obligations.WrburstClockWrites := by
  intro s h
  obtain ⟨wp, pe, d, hend, hdev, href⟩ :=
    h.burstWrite_completes 0xBE (by omega) (by omega) (exec_wrburstClock s) rfl
  exact ⟨wp, pe, d, hend, hdev, fun rp hp => href rp hp rfl⟩

/-- Settles O28: the rule is one guarded burst write of 31 bytes, of which a clock burst takes the first nine. -/
theorem wrburstRamWrites : Obligations.WrburstRamWrites := by
  intro s h
  exact h.burstWrite_completes s.params.ramBurstWr (by omega) (by omega) (exec_wrburstRam s) rfl

end Sys2Proof.Machine
end

section
/-! PROOFS. RegisterCodec, read path (43_codec_read.md R170 to R185): the two decode functions on natural numbers and on bits,
and the thirteen RDFIELD operations, each one read transaction and then the field's decode. -/

namespace Sys2Proof.Machine

/-! ### BCD decode (R170) -/

/-- The decode with the tens mask of `k` bits keeps the tens digit modulo `2 ^ k`, and nothing overflows. -/
theorem toNat_dec (raw : Byte) {m : Byte} {k : Nat} (hm : m.toNat = 2 ^ k - 1) :
    (dec raw m).toNat = bcdValue raw (2 ^ k) := by
  have htens : ((raw >>> 4) &&& m).toNat = raw.toNat / 16 % 2 ^ k := by
    rw [BitVec.toNat_and, BitVec.toNat_ushiftRight, hm, Nat.and_two_pow_sub_one_eq_mod, Nat.shiftRight_eq_div_pow]
  have hunits : (raw &&& 0xF).toNat = raw.toNat % 16 := by
    rw [BitVec.toNat_and]
    exact Nat.and_two_pow_sub_one_eq_mod raw.toNat 4
  have hlt : raw.toNat / 16 % 2 ^ k ≤ 15 := (Nat.mod_le _ _).trans (by omega)
  rw [dec, htens, hunits, BitVec.toNat_ofNat, bcdValue]
  omega

theorem toNat_decodeSecond (raw : Byte) : (decodeSecond raw).toNat = bcdValue raw 8 :=
  toNat_dec raw (k := 3) rfl

theorem toNat_decodeMinute (raw : Byte) : (decodeMinute raw).toNat = bcdValue raw 8 :=
  toNat_dec raw (k := 3) rfl

theorem toNat_decodeDate (raw : Byte) : (decodeDate raw).toNat = bcdValue raw 4 :=
  toNat_dec raw (k := 2) rfl

theorem toNat_decodeMonth (raw : Byte) : (decodeMonth raw).toNat = bcdValue raw 2 :=
  toNat_dec raw (k := 1) rfl

theorem toNat_decodeYear (raw : Byte) : (decodeYear raw).toNat = bcdValue raw 16 :=
  toNat_dec raw (k := 4) rfl

theorem bcdValue_le (raw : Byte) {m : Nat} (hm : 0 < m) : bcdValue raw m ≤ 10 * (m - 1) + 15 := by
  have htens : raw.toNat / 16 % m < m := Nat.mod_lt _ hm
  rw [bcdValue]
  omega

/-! ### Flag decode (R171) -/

theorem bit_eq_ite (raw : Byte) (n : Nat) : bit raw n = if raw.getLsbD n then 1 else 0 := by
  have hbit : bit raw n = (BitVec.ofBool ((raw >>> n).getLsbD 0)).setWidth 8 :=
    BitVec.and_one_eq_setWidth_ofBool_getLsbD
  rw [hbit, BitVec.getLsbD_ushiftRight, Nat.add_zero]
  cases raw.getLsbD n <;> rfl

theorem toNat_bit_le_one (raw : Byte) (n : Nat) : (bit raw n).toNat ≤ 1 := by
  rw [bit_eq_ite]
  cases raw.getLsbD n <;> decide

/-- The hour, in the format that bit 7 names (R174). -/
theorem toNat_decodeHour (raw : Byte) :
    (decodeHour raw).toNat = if raw.getLsbD 7 then bcdValue raw 2 else bcdValue raw 4 := by
  rw [decodeHour, bit_eq_ite]
  cases raw.getLsbD 7
  · exact toNat_dec raw (k := 2) rfl
  · exact toNat_dec raw (k := 1) rfl

/-! ### The template of the field reads -/

/-- Instruction `i` with word `w` is a field read: its rule reads clock register `idx` with command `c` and returns the
`decode` of the byte (43_codec_read.md section 2). -/
structure FieldRead (i : Instr) (w : OpWord) (c : Byte) (idx : Nat) (decode : Byte → Byte) : Prop where
  word : encode i = .op16 w
  command : RegisterCommand c true idx
  rule : ∀ s : State, exec i s = s.operate fun P _ => readField c decode P

section
variable {i : Instr} {w : OpWord} {c : Byte} {idx : Nat} {decode : Byte → Byte}

theorem FieldRead.decodes (hf : FieldRead i w c idx decode) : decodeWord w = .ok i := decodeWord_of_encode hf.word

/-- A started field read is one read transaction, and RESULT takes the decode of what it returned. -/
theorem FieldRead.completes (hf : FieldRead i w c idx decode) {s : State} (h : Started i s) :
    ∃ v pe d, ReadsRegister s idx v pe d ∧
      exec i s =
        .next { s.ended (rdXferEvents s.params.samplePhase c v) (padsAfterRead c) pe d 0 with result := decode v } := by
  obtain ⟨hr, hs, hi, hle⟩ := hf.command
  obtain ⟨v, pe, d, hyields, hreads⟩ := rdXfer_register h.between s.params.samplePhase c hr hs hi hle
  refine ⟨v, pe, d, hreads, ?_⟩
  rw [hf.rule]
  exact h.operate_yields hyields (fun raw => .value (decode raw)) rfl

end

/-! ### The thirteen field reads (R172 to R184) -/

theorem fieldRead_second : FieldRead .rdfieldSecond 0x0700 0x81 0 decodeSecond :=
  ⟨rfl, ⟨rfl, rfl, rfl, by omega⟩, fun _ => rfl⟩

theorem fieldRead_minute : FieldRead .rdfieldMinute 0x0701 0x83 1 decodeMinute :=
  ⟨rfl, ⟨rfl, rfl, rfl, by omega⟩, fun _ => rfl⟩

theorem fieldRead_hour : FieldRead .rdfieldHour 0x0702 0x85 2 decodeHour :=
  ⟨rfl, ⟨rfl, rfl, rfl, by omega⟩, fun _ => rfl⟩

theorem fieldRead_date : FieldRead .rdfieldDate 0x0703 0x87 3 decodeDate :=
  ⟨rfl, ⟨rfl, rfl, rfl, by omega⟩, fun _ => rfl⟩

theorem fieldRead_month : FieldRead .rdfieldMonth 0x0704 0x89 4 decodeMonth :=
  ⟨rfl, ⟨rfl, rfl, rfl, by omega⟩, fun _ => rfl⟩

theorem fieldRead_weekday : FieldRead .rdfieldWeekday 0x0705 0x8B 5 decodeWeekday :=
  ⟨rfl, ⟨rfl, rfl, rfl, by omega⟩, fun _ => rfl⟩

theorem fieldRead_year : FieldRead .rdfieldYear 0x0706 0x8D 6 decodeYear :=
  ⟨rfl, ⟨rfl, rfl, rfl, by omega⟩, fun _ => rfl⟩

theorem fieldRead_meridiem : FieldRead .rdfieldMeridiem 0x0707 0x85 2 decodeMeridiem :=
  ⟨rfl, ⟨rfl, rfl, rfl, by omega⟩, fun _ => rfl⟩

theorem fieldRead_hourFormat : FieldRead .rdfieldHourFormat 0x0708 0x85 2 decodeHourFormat :=
  ⟨rfl, ⟨rfl, rfl, rfl, by omega⟩, fun _ => rfl⟩

theorem fieldRead_clockHalt : FieldRead .rdfieldClockHalt 0x0709 0x81 0 decodeClockHalt :=
  ⟨rfl, ⟨rfl, rfl, rfl, by omega⟩, fun _ => rfl⟩

theorem fieldRead_writeProtect : FieldRead .rdfieldWriteProtect 0x070A 0x8F 7 decodeWriteProtect :=
  ⟨rfl, ⟨rfl, rfl, rfl, by omega⟩, fun _ => rfl⟩

theorem fieldRead_rawHour : FieldRead .rdfieldRawHour 0x070B 0x85 2 decodeRawHour :=
  ⟨rfl, ⟨rfl, rfl, rfl, by omega⟩, fun _ => rfl⟩

theorem fieldRead_trickle : FieldRead .rdfieldTrickle 0x070C 0x91 8 decodeTrickle :=
  ⟨rfl, ⟨rfl, rfl, rfl, by omega⟩, fun _ => rfl⟩

/-! ### The statements -/

/-- Settles O29: each row is a field read whose decode is the BCD decode with the row's tens mask. -/
theorem rdfieldDigits : Obligations.RdfieldDigits := by
  intro i w c idx m hrow
  obtain ⟨decode, hf, hdec⟩ : ∃ decode, FieldRead i w c idx decode ∧ ∀ v, (decode v).toNat = bcdValue v m := by
    simp only [List.mem_cons, List.not_mem_nil, or_false, Prod.mk.injEq] at hrow
    rcases hrow with ⟨rfl, rfl, rfl, rfl, rfl⟩ | ⟨rfl, rfl, rfl, rfl, rfl⟩ | ⟨rfl, rfl, rfl, rfl, rfl⟩ |
      ⟨rfl, rfl, rfl, rfl, rfl⟩ | ⟨rfl, rfl, rfl, rfl, rfl⟩
    · exact ⟨_, fieldRead_second, toNat_decodeSecond⟩
    · exact ⟨_, fieldRead_minute, toNat_decodeMinute⟩
    · exact ⟨_, fieldRead_date, toNat_decodeDate⟩
    · exact ⟨_, fieldRead_month, toNat_decodeMonth⟩
    · exact ⟨_, fieldRead_year, toNat_decodeYear⟩
  refine ⟨hf.decodes, fun s hs => ?_⟩
  obtain ⟨v, pe, d, hreads, hend⟩ := hf.completes hs
  exact ⟨v, pe, d, _, hreads, hend, hdec v⟩

/-- Settles O30: a field read of the hour register, decoded in the format of bit 7. -/
theorem rdfieldHour : Obligations.RdfieldHour := by
  refine ⟨fieldRead_hour.decodes, fun s hs => ?_⟩
  obtain ⟨v, pe, d, hreads, hend⟩ := fieldRead_hour.completes hs
  exact ⟨v, pe, d, _, hreads, hend, toNat_decodeHour v⟩

/-- Settles O31: each row is a field read whose decode is the row's bit. -/
theorem rdfieldFlags : Obligations.RdfieldFlags := by
  intro i w c idx n hrow
  have hf : FieldRead i w c idx fun v => if v.getLsbD n then 1 else 0 := by
    simp only [← bit_eq_ite]
    simp only [List.mem_cons, List.not_mem_nil, or_false, Prod.mk.injEq] at hrow
    rcases hrow with ⟨rfl, rfl, rfl, rfl, rfl⟩ | ⟨rfl, rfl, rfl, rfl, rfl⟩ | ⟨rfl, rfl, rfl, rfl, rfl⟩ |
      ⟨rfl, rfl, rfl, rfl, rfl⟩
    · exact fieldRead_meridiem
    · exact fieldRead_hourFormat
    · exact fieldRead_clockHalt
    · exact fieldRead_writeProtect
  exact ⟨hf.decodes, fun _ hs => hf.completes hs⟩

/-- Settles O32: each row is a field read that passes its byte on. -/
theorem rdfieldRaw : Obligations.RdfieldRaw := by
  intro i w c idx hrow
  have hf : FieldRead i w c idx id := by
    simp only [List.mem_cons, List.not_mem_nil, or_false, Prod.mk.injEq] at hrow
    rcases hrow with ⟨rfl, rfl, rfl, rfl⟩ | ⟨rfl, rfl, rfl, rfl⟩ | ⟨rfl, rfl, rfl, rfl⟩
    · exact fieldRead_weekday
    · exact fieldRead_rawHour
    · exact fieldRead_trickle
  exact ⟨hf.decodes, fun _ hs => hf.completes hs⟩

/-- Settles O54: a BCD decode with tens digit below `m` is at most `10 * (m - 1) + 15`, a flag at most 1, and the bytes
named reach these bounds. -/
theorem decodeRanges : Obligations.DecodeRanges := by
  refine ⟨fun raw => ⟨?second, ?minute, fun h24 => ?hour24, fun h12 => ?hour12, ?date, ?month, ?year, rfl, rfl, rfl,
    toNat_bit_le_one raw 5, toNat_bit_le_one raw 7, toNat_bit_le_one raw 7, toNat_bit_le_one raw 7⟩, by decide⟩
  case second => exact (toNat_decodeSecond raw).trans_le (bcdValue_le raw (by omega))
  case minute => exact (toNat_decodeMinute raw).trans_le (bcdValue_le raw (by omega))
  case hour24 =>
    rw [toNat_decodeHour, h24]
    exact bcdValue_le raw (by omega)
  case hour12 =>
    rw [toNat_decodeHour, h12]
    exact bcdValue_le raw (by omega)
  case date => exact (toNat_decodeDate raw).trans_le (bcdValue_le raw (by omega))
  case month => exact (toNat_decodeMonth raw).trans_le (bcdValue_le raw (by omega))
  case year => exact (toNat_decodeYear raw).trans_le (bcdValue_le raw (by omega))

end Sys2Proof.Machine
end

section
/-! PROOFS. RegisterCodec, write path: the encoders on bits and on natural numbers, and that the decoders of the read path undo
them (44_codec_write.md R200 to R205, R220). -/

namespace Sys2Proof.Machine

/-! ### BCD encode (R200) and merge (R203) -/

/-- The tens digit and the units digit do not overlap, so the packed value is their sum. -/
theorem toNat_bcd (v : Byte) : (bcd v).toNat = packed v.toNat % 256 := by
  have hunits : v.toNat % 10 < 2 ^ 4 := by omega
  rw [bcd, BitVec.toNat_ofNat, ← Nat.shiftLeft_add_eq_or_of_lt hunits, Nat.shiftLeft_eq, packed]
  omega

theorem getLsbD_bcd (v : Byte) {n : Nat} (hn : n < 8) : (bcd v).getLsbD n = (packed v.toNat).testBit n := by
  rw [← BitVec.testBit_toNat, toNat_bcd]
  exact (Nat.testBit_mod_two_pow _ 8 n).trans (by simp [hn])

theorem getLsbD_merge (raw p mask : Byte) {n : Nat} (hn : n < 8) :
    (merge raw p mask).getLsbD n = if mask.getLsbD n then p.getLsbD n else raw.getLsbD n := by
  rw [merge, BitVec.getLsbD_or, BitVec.getLsbD_and, BitVec.getLsbD_and, BitVec.getLsbD_not]
  cases mask.getLsbD n <;> simp [hn]

theorem mergedByte_merge (raw v mask : Byte) : MergedByte mask raw v (merge raw (bcd v) mask) := by
  intro n hn
  rw [getLsbD_merge _ _ _ hn, getLsbD_bcd v hn]

/-- The low `k` bits of the packed value. -/
theorem toNat_bcd_and (v : Byte) {mask : Byte} {k : Nat} (hk : k ≤ 8) (hmask : mask.toNat = 2 ^ k - 1) :
    (bcd v &&& mask).toNat = packed v.toNat % 2 ^ k := by
  rw [BitVec.toNat_and, hmask, Nat.and_two_pow_sub_one_eq_mod, toNat_bcd]
  exact Nat.mod_mod_of_dvd _ (Nat.pow_dvd_pow 2 hk)

/-! ### The hour bytes (R204) -/

theorem hour24Byte_enc24 (v : Byte) : Hour24Byte v.toNat (enc24 v) := toNat_bcd_and v (k := 6) (by omega) rfl

/-- The digits lie below bit 5, the meridiem and the format at bits 5 and 7. -/
theorem hour12Byte_enc12 (h : Byte) (m : Bool) : Hour12Byte h.toNat m (enc12 h (if m then 1 else 0)) := by
  have hdigits : (bcd h &&& 0x1F).toNat = packed h.toNat % 32 := toNat_bcd_and h (k := 5) (by omega) rfl
  have hlt : packed h.toNat % 32 < 2 ^ 5 := Nat.mod_lt _ (by omega)
  rw [Hour12Byte, enc12, BitVec.toNat_or, hdigits]
  cases m
  · exact (Nat.two_pow_add_eq_or_of_lt hlt 4).symm
  · exact (Nat.two_pow_add_eq_or_of_lt hlt 5).symm

/-! ### Format conversions (R205) -/

theorem to12_of_lt {h : Byte} (hh : 12 < h.toNat) : to12 h = (h - 12, 1) := if_pos hh

theorem to12_of_le {h : Byte} (hh : h.toNat ≤ 12) : to12 h = (h, 0) := if_neg (by omega)

theorem toNat_sub_twelve {h : Byte} (hh : 12 < h.toNat) : (h - 12).toNat = h.toNat - 12 :=
  BitVec.toNat_sub_of_le (BitVec.le_def.mpr hh.le)

theorem toNat_to24 {h : Byte} (hh : h.toNat ≤ 243) (m : Bool) :
    (to24 h (if m then 1 else 0)).toNat = h.toNat + if m then 12 else 0 := by
  cases m
  · exact BitVec.toNat_add_of_lt (y := 12 * 0) (show h.toNat + 0 < 2 ^ 8 by omega)
  · exact BitVec.toNat_add_of_lt (y := 12 * 1) (show h.toNat + 12 < 2 ^ 8 by omega)

/-- The meridiem `to12` yields puts back what it subtracted. -/
theorem to24_to12 (h : Byte) : to24 (to12 h).1 (to12 h).2 = h := by
  obtain hlt | hle := Nat.lt_or_ge 12 h.toNat
  · rw [to12_of_lt hlt]
    exact BitVec.sub_add_cancel h 12
  · rw [to12_of_le hle]
    exact BitVec.add_zero h

/-- 12 h to 24 h and back, the meridiem being a bit. -/
theorem to12_to24 {h : Byte} (hpos : 1 ≤ h.toNat) (hle : h.toNat ≤ 12) (m : Bool) :
    to12 (to24 h (if m then 1 else 0)) = (h, if m then 1 else 0) := by
  have hto24 := toNat_to24 (show h.toNat ≤ 243 by omega) m
  cases m with
  | false =>
    rw [to12_of_le (hto24.trans_le hle)]
    exact congrArg (·, 0) (BitVec.add_zero h)
  | true =>
    have hsum : (to24 h 1).toNat = h.toNat + 12 := hto24
    change to12 (to24 h 1) = (h, 1)
    rw [to12_of_lt (by omega)]
    exact congrArg (·, 1) (BitVec.add_sub_cancel h 12)

/-- A byte of at most 1 is a flag. -/
theorem exists_flag_of_le_one {m : Byte} (hm : m.toNat ≤ 1) : ∃ b : Bool, m = if b then 1 else 0 := by
  obtain h0 | h1 : m.toNat = 0 ∨ m.toNat = 1 := by omega
  · exact ⟨false, BitVec.eq_of_toNat_eq h0⟩
  · exact ⟨true, BitVec.eq_of_toNat_eq h1⟩

/-- Settles O53: `to24` adds the 12 that `to12` subtracts, and `to12` tells by it which meridiem it was. -/
theorem formatRoundTrip : Obligations.FormatRoundTrip := by
  refine ⟨fun h _ => to24_to12 h, fun h m hpos hle hm => ?_, by decide⟩
  obtain ⟨b, rfl⟩ := exists_flag_of_le_one hm
  exact to12_to24 hpos hle b

/-! ### Decoding what was encoded (R220) -/

/-- The merge takes from the packed value what a mask inside the value mask selects. -/
theorem merge_and (raw p : Byte) {mask m : Byte} (h : m &&& mask = m) : merge raw p mask &&& m = p &&& m := by
  apply BitVec.eq_of_getLsbD_eq
  intro n hn
  have hbit : (m.getLsbD n && mask.getLsbD n) = m.getLsbD n := by rw [← BitVec.getLsbD_and, h]
  rw [BitVec.getLsbD_and, BitVec.getLsbD_and, getLsbD_merge _ _ _ hn]
  cases hm : m.getLsbD n
  · simp
  · rw [hm, Bool.true_and] at hbit
    rw [if_pos hbit]

/-- Where the value mask covers the tens digits that the decode reads and the units digit, the byte read before leaves no
trace in what is decoded. -/
theorem dec_merge (raw p : Byte) {mask m : Byte} (hm : (m <<< 4) >>> 4 = m) (htens : (m <<< 4) &&& mask = m <<< 4)
    (hunits : 0xF &&& mask = 0xF) : dec (merge raw p mask) m = dec p m := by
  have hhigh : (merge raw p mask >>> 4) &&& m = (p >>> 4) &&& m := by
    rw [← hm, ← BitVec.ushiftRight_and_distrib, ← BitVec.ushiftRight_and_distrib, merge_and raw p htens]
  rw [dec, dec, hhigh, merge_and raw p hunits]

/-- A tens digit that fits in the tens mask is decoded as it was encoded. -/
theorem dec_bcd {v m : Byte} {k : Nat} (hm : m.toNat = 2 ^ k - 1) (hk : k ≤ 4) (hv : v.toNat < 10 * 2 ^ k) :
    dec (bcd v) m = v := by
  have hfits : v.toNat / 10 % 2 ^ k = v.toNat / 10 := Nat.mod_eq_of_lt (by omega)
  have hpow : 2 ^ k ≤ 2 ^ 4 := Nat.pow_le_pow_right (by omega) hk
  have htens : packed v.toNat % 256 / 16 = v.toNat / 10 := by unfold packed; omega
  have hunits : packed v.toNat % 256 % 16 = v.toNat % 10 := by unfold packed; omega
  apply BitVec.eq_of_toNat_eq
  rw [toNat_dec _ hm, bcdValue, toNat_bcd, htens, hunits, hfits]
  omega

/-- The 12 h byte is the digits merged below bit 5. -/
theorem enc12_eq_merge (h m : Byte) : enc12 h m = merge (0x80 ||| (m <<< 5)) (bcd h) 0x1F := by
  have hkeep : (0x80 ||| (m <<< 5)) &&& ~~~(0x1F : Byte) = 0x80 ||| (m <<< 5) := by
    apply BitVec.eq_of_getLsbD_eq
    intro n hn
    simp only [BitVec.getLsbD_and, BitVec.getLsbD_or, BitVec.getLsbD_shiftLeft]
    interval_cases n <;> simp
  rw [merge, hkeep, enc12]

theorem enc24_eq_merge (v : Byte) : enc24 v = merge 0 (bcd v) 0x3F := by
  simp [merge, enc24]

/-- 24 h format: bit 7 is 0, and the tens digit has two bits (R174). -/
theorem decodeHour_enc24 {v : Byte} (hv : v.toNat ≤ 39) : decodeHour (enc24 v) = v := by
  have h24 : (enc24 v).getLsbD 7 = false := by
    rw [enc24_eq_merge, getLsbD_merge _ _ _ (by omega)]
    rfl
  rw [decodeHour, bit_eq_ite, h24, enc24_eq_merge]
  exact (dec_merge 0 (bcd v) rfl rfl rfl).trans (dec_bcd (k := 2) rfl (by omega) (by omega))

/-- 12 h format: bit 7 is 1, and the tens digit has one bit (R174). -/
theorem decodeHour_enc12 {v : Byte} (hv : v.toNat ≤ 19) (m : Bool) : decodeHour (enc12 v (if m then 1 else 0)) = v := by
  have h12 : (enc12 v (if m then 1 else 0)).getLsbD 7 = true := by
    rw [enc12_eq_merge, getLsbD_merge _ _ _ (by omega)]
    cases m <;> rfl
  rw [decodeHour, bit_eq_ite, h12, enc12_eq_merge]
  exact (dec_merge _ (bcd v) rfl rfl rfl).trans (dec_bcd (k := 1) rfl (by omega) (by omega))

theorem decodeMeridiem_enc12 (v : Byte) (m : Bool) :
    decodeMeridiem (enc12 v (if m then 1 else 0)) = if m then 1 else 0 := by
  have h5 : (enc12 v (if m then 1 else 0)).getLsbD 5 = m := by
    rw [enc12_eq_merge, getLsbD_merge _ _ _ (by omega)]
    cases m <;> rfl
  rw [decodeMeridiem, bit_eq_ite, h5]

/-- Settles O52: the merge hands the decode the packed digits, whose tens digit fits in the decode's mask. -/
theorem bcdRoundTrip : Obligations.BcdRoundTrip := by
  refine fun raw v => ⟨fun hv => ⟨?second, ?minute⟩, fun hv => ⟨decodeHour_enc24 hv, ?date⟩, fun hv m hm => ?hour12,
    fun hv => ?month, fun hv => ?year⟩
  case second => exact (dec_merge raw _ rfl rfl rfl).trans (dec_bcd (k := 3) rfl (by omega) (by omega))
  case minute => exact (dec_merge raw _ rfl rfl rfl).trans (dec_bcd (k := 3) rfl (by omega) (by omega))
  case date => exact (dec_merge raw _ rfl rfl rfl).trans (dec_bcd (k := 2) rfl (by omega) (by omega))
  case hour12 =>
    obtain ⟨b, rfl⟩ := exists_flag_of_le_one hm
    exact ⟨decodeHour_enc12 (by omega) b, decodeMeridiem_enc12 v b⟩
  case month => exact (dec_merge raw _ rfl rfl rfl).trans (dec_bcd (k := 1) rfl (by omega) (by omega))
  case year => exact (dec_merge raw _ rfl rfl rfl).trans (dec_bcd (k := 4) rfl (by omega) (by omega))

end Sys2Proof.Machine
end

section
/-! PROOFS. RegisterCodec, write path (44_codec_write.md R201 to R219): the byte each field write computes from the byte it has
read, the thirteen WRFIELD operations, each one body inside the guard but for WRITEPROTECT, and WP after the guard. -/

namespace Sys2Proof.Machine

/-! ### The bytes written (R208, R213 to R215) -/

theorem toNat_hour12Of (v : Byte) : (hour12Of v).toNat = if 12 < v.toNat then v.toNat - 12 else v.toNat := by
  rw [hour12Of, apply_ite BitVec.toNat]
  exact ite_congr rfl toNat_sub_twelve fun _ => rfl

theorem bit_eq_one_iff (raw : Byte) (n : Nat) : bit raw n = 1 ↔ raw.getLsbD n = true := by
  rw [bit_eq_ite]
  cases raw.getLsbD n <;> decide

/-- Two bits are compared as bytes of 0 or 1. -/
theorem bit_eq_bit_iff (a b : Byte) (m n : Nat) : bit a m = bit b n ↔ a.getLsbD m = b.getLsbD n := by
  rw [bit_eq_ite, bit_eq_ite]
  cases a.getLsbD m <;> cases b.getLsbD n <;> decide

/-- The format that is asked for is bit 0 of the value. -/
theorem and_one_eq_bit_zero (v : Byte) : v &&& 1 = bit v 0 := by rw [bit, BitVec.ushiftRight_zero]

/-- Bit `k` is replaced by bit 0 of the value, the others are kept. -/
theorem getLsbD_replace_bit (raw v : Byte) {k n : Nat} (hk : k < 8) (hn : n < 8) :
    ((raw &&& ~~~((1 : Byte) <<< k)) ||| ((v &&& 1) <<< k)).getLsbD n =
      if n = k then v.getLsbD 0 else raw.getLsbD n := by
  simp only [BitVec.getLsbD_or, BitVec.getLsbD_and, BitVec.getLsbD_not, BitVec.getLsbD_shiftLeft]
  obtain hlt | rfl | hgt := Nat.lt_trichotomy n k
  · simp [hlt, hlt.ne, hn]
  · simp [hn]
  · have hpast : n - k ≠ 0 := by omega
    simp [hgt.ne', hpast, hn]

theorem hourByte_hourWritten (raw v : Byte) : HourByte raw v (hourWritten raw v) := by
  rw [HourByte, hourWritten]
  by_cases h12 : raw.getLsbD 7 = true
  · rw [if_pos h12, if_pos ((bit_eq_one_iff raw 7).mpr h12), bit_eq_ite, ← toNat_hour12Of]
    exact hour12Byte_enc12 _ _
  · rw [if_neg h12, if_neg ((bit_eq_one_iff raw 7).not.mpr h12)]
    exact hour24Byte_enc24 v

theorem meridiemByte_meridiemWritten (raw v : Byte) : MeridiemByte raw v (meridiemWritten raw v) := by
  rw [meridiemWritten]
  by_cases h12 : raw.getLsbD 7 = true
  · rw [if_pos ((bit_eq_one_iff raw 7).mpr h12)]
    exact ⟨h12, fun n hn => getLsbD_replace_bit raw v (k := 5) (by omega) hn⟩
  · rw [if_neg ((bit_eq_one_iff raw 7).not.mpr h12)]
    exact Bool.eq_false_of_not_eq_true h12

/-- The hour byte in the format that the byte read is not in (R214). -/
theorem convertHour_changes_format (raw : Byte) :
    if raw.getLsbD 7 then Hour24Byte (bcdValue raw 2 + if raw.getLsbD 5 then 12 else 0) (convertHour raw)
    else if 12 < bcdValue raw 4 then Hour12Byte (bcdValue raw 4 - 12) true (convertHour raw)
    else Hour12Byte (bcdValue raw 4) false (convertHour raw) := by
  have h2 : (dec raw 0x1).toNat = bcdValue raw 2 := toNat_dec raw (k := 1) rfl
  have h4 : (dec raw 0x3).toNat = bcdValue raw 4 := toNat_dec raw (k := 2) rfl
  rw [convertHour, bit_eq_ite raw 7, ← h2, ← h4]
  cases raw.getLsbD 7 with
  | true =>
    have hle : (dec raw 0x1).toNat ≤ 25 := h2.trans_le (bcdValue_le raw (by omega))
    have hto24 := toNat_to24 (show (dec raw 0x1).toNat ≤ 243 by omega) (raw.getLsbD 5)
    rw [if_pos rfl, ← hto24, bit_eq_ite]
    exact hour24Byte_enc24 _
  | false =>
    rw [if_neg Bool.false_ne_true]
    obtain hlt | hle := Nat.lt_or_ge 12 (dec raw 0x3).toNat
    · rw [if_pos hlt, to12_of_lt hlt, ← toNat_sub_twelve hlt]
      exact hour12Byte_enc12 _ true
    · rw [if_neg (by omega), to12_of_le hle]
      exact hour12Byte_enc12 _ false

theorem formatByte_formatWritten (raw v : Byte) : FormatByte raw v (formatWritten raw v) := by
  rw [formatWritten, and_one_eq_bit_zero]
  by_cases hsame : raw.getLsbD 7 = v.getLsbD 0
  · rw [if_pos ((bit_eq_bit_iff _ _ _ _).mpr hsame)]
    exact hsame
  · rw [if_neg ((bit_eq_bit_iff _ _ _ _).not.mpr hsame)]
    exact ⟨hsame, convertHour_changes_format raw⟩

/-! ### The template of the field writes -/

/-- Instruction `i` with word `w` is a guarded field write: its rule is `body` with v = S_DATA, which reads clock register
`idx` with command `rc` and writes with command `wc` what `b` makes of the byte read and of v. -/
structure FieldWrite (i : Instr) (w : OpWord) (rc wc : Byte) (idx : Nat)
    (body : Params → Byte → Prog OpResult → Prog OpResult) (b : Byte → Byte → Option Byte) : Prop where
  word : encode i = .op16 w
  rule : ∀ s : State, exec i s = s.operate fun P S => body P S.data (.ret .done)
  writes : ∀ {s : State}, Between s → ∀ v, WritesField (body s.params v) s rc wc idx fun raw => b raw v

/-- The same for a field that is written as given, with no read. -/
structure RawWrite (i : Instr) (w : OpWord) (wc : Byte) (idx : Nat)
    (body : Params → Byte → Prog OpResult → Prog OpResult) : Prop where
  word : encode i = .op16 w
  rule : ∀ s : State, exec i s = s.operate fun P S => body P S.data (.ret .done)
  writes : ∀ {s : State}, Between s → ∀ v, WritesRaw (body s.params v) s wc idx v

section
variable {i : Instr} {w : OpWord} {rc wc : Byte} {idx : Nat} {body : Params → Byte → Prog OpResult → Prog OpResult}
  {b : Byte → Byte → Option Byte} {s : State}

theorem FieldWrite.completes (hf : FieldWrite i w rc wc idx body b) (h : Started i s) :
    ∃ wp raw pe d, GuardedWrite s idx raw (b raw s.snap.data) wp pe d ∧
      exec i s = .next (s.ended (fieldWriteEvents s.params wp rc raw wc (b raw s.snap.data))
        (padsAfterWrite (guardRestores s.params wp <<< 7)) pe d 0) := by
  obtain ⟨wp, raw, pe, d, hrun, hwrite⟩ := hf.writes h.between s.snap.data
  refine ⟨wp, raw, pe, d, hwrite, ?_⟩
  rw [hf.rule]
  exact h.operate_runs hrun .done rfl

theorem RawWrite.completes (hf : RawWrite i w wc idx body) (h : Started i s) :
    ∃ wp pe d, GuardedRawWrite s idx s.snap.data wp pe d ∧
      exec i s = .next (s.ended (rawWriteEvents s.params wp wc s.snap.data)
        (padsAfterWrite (guardRestores s.params wp <<< 7)) pe d 0) := by
  obtain ⟨wp, pe, d, hrun, hwrite⟩ := hf.writes h.between s.snap.data
  refine ⟨wp, pe, d, hwrite, ?_⟩
  rw [hf.rule]
  exact h.operate_runs hrun .done rfl

end

/-! ### The twelve guarded field writes (R206 to R215, R217, R218) -/

theorem fieldWrite_second :
    FieldWrite .wrfieldSecond 0x0800 0x81 0x80 0 writeSecond fun raw v => some (merge raw (bcd v) 0x7F) :=
  ⟨rfl, fun _ => rfl, writeSecond_writes⟩

theorem fieldWrite_minute :
    FieldWrite .wrfieldMinute 0x0801 0x83 0x82 1 writeMinute fun raw v => some (merge raw (bcd v) 0x7F) :=
  ⟨rfl, fun _ => rfl, writeMinute_writes⟩

theorem fieldWrite_hour :
    FieldWrite .wrfieldHour 0x0802 0x85 0x84 2 writeHour fun raw v => some (hourWritten raw v) :=
  ⟨rfl, fun _ => rfl, writeHour_writes⟩

theorem fieldWrite_date :
    FieldWrite .wrfieldDate 0x0803 0x87 0x86 3 writeDate fun raw v => some (merge raw (bcd v) 0x3F) :=
  ⟨rfl, fun _ => rfl, writeDate_writes⟩

theorem fieldWrite_month :
    FieldWrite .wrfieldMonth 0x0804 0x89 0x88 4 writeMonth fun raw v => some (merge raw (bcd v) 0x1F) :=
  ⟨rfl, fun _ => rfl, writeMonth_writes⟩

theorem rawWrite_weekday : RawWrite .wrfieldWeekday 0x0805 0x8A 5 writeWeekday :=
  ⟨rfl, fun _ => rfl, writeWeekday_writes⟩

theorem fieldWrite_year :
    FieldWrite .wrfieldYear 0x0806 0x8D 0x8C 6 writeYear fun raw v => some (merge raw (bcd v) 0xFF) :=
  ⟨rfl, fun _ => rfl, writeYear_writes⟩

theorem fieldWrite_meridiem : FieldWrite .wrfieldMeridiem 0x0807 0x85 0x84 2 writeMeridiem meridiemWritten :=
  ⟨rfl, fun _ => rfl, writeMeridiem_writes⟩

theorem fieldWrite_hourFormat : FieldWrite .wrfieldHourFormat 0x0808 0x85 0x84 2 writeHourFormat formatWritten :=
  ⟨rfl, fun _ => rfl, writeHourFormat_writes⟩

theorem fieldWrite_clockHalt :
    FieldWrite .wrfieldClockHalt 0x0809 0x81 0x80 0 writeClockHalt
      fun raw v => some ((raw &&& 0x7F) ||| ((v &&& 1) <<< 7)) :=
  ⟨rfl, fun _ => rfl, writeClockHalt_writes⟩

theorem rawWrite_rawHour : RawWrite .wrfieldRawHour 0x080B 0x84 2 writeRawHour :=
  ⟨rfl, fun _ => rfl, writeRawHour_writes⟩

theorem rawWrite_trickle : RawWrite .wrfieldTrickle 0x080C 0x90 8 writeTrickle :=
  ⟨rfl, fun _ => rfl, writeTrickle_writes⟩

/-- Settles O33: each row is a field write whose byte is the packed value merged with the row's mask. -/
theorem wrfieldMerges : Obligations.WrfieldMerges := by
  intro i w rc wc idx mask hrow
  obtain ⟨body, hf⟩ : ∃ body, FieldWrite i w rc wc idx body fun raw v => some (merge raw (bcd v) mask) := by
    simp only [List.mem_cons, List.not_mem_nil, or_false, Prod.mk.injEq] at hrow
    rcases hrow with ⟨rfl, rfl, rfl, rfl, rfl, rfl⟩ | ⟨rfl, rfl, rfl, rfl, rfl, rfl⟩ | ⟨rfl, rfl, rfl, rfl, rfl, rfl⟩ |
      ⟨rfl, rfl, rfl, rfl, rfl, rfl⟩ | ⟨rfl, rfl, rfl, rfl, rfl, rfl⟩
    · exact ⟨_, fieldWrite_second⟩
    · exact ⟨_, fieldWrite_minute⟩
    · exact ⟨_, fieldWrite_date⟩
    · exact ⟨_, fieldWrite_month⟩
    · exact ⟨_, fieldWrite_year⟩
  refine ⟨decodeWord_of_encode hf.word, fun s h => ?_⟩
  obtain ⟨wp, raw, pe, d, hwrite, hend⟩ := hf.completes h
  exact ⟨wp, raw, _, pe, d, mergedByte_merge raw s.snap.data mask, hwrite, hend⟩

/-- Settles O34: a field write of the hour register, encoded in the format of the byte read. -/
theorem wrfieldHour : Obligations.WrfieldHour := by
  refine ⟨decodeWord_of_encode fieldWrite_hour.word, fun s h => ?_⟩
  obtain ⟨wp, raw, pe, d, hwrite, hend⟩ := fieldWrite_hour.completes h
  exact ⟨wp, raw, _, pe, d, hourByte_hourWritten raw s.snap.data, hwrite, hend⟩

/-- Settles O35: each row is a guarded write of v with no read. -/
theorem wrfieldRaw : Obligations.WrfieldRaw := by
  intro i w wc idx hrow
  obtain ⟨body, hf⟩ : ∃ body, RawWrite i w wc idx body := by
    simp only [List.mem_cons, List.not_mem_nil, or_false, Prod.mk.injEq] at hrow
    rcases hrow with ⟨rfl, rfl, rfl, rfl⟩ | ⟨rfl, rfl, rfl, rfl⟩ | ⟨rfl, rfl, rfl, rfl⟩
    · exact ⟨_, rawWrite_weekday⟩
    · exact ⟨_, rawWrite_rawHour⟩
    · exact ⟨_, rawWrite_trickle⟩
  exact ⟨decodeWord_of_encode hf.word, fun _ h => hf.completes h⟩

/-- Settles O36: a field write of the hour register that writes in 12 h format only. -/
theorem wrfieldMeridiem : Obligations.WrfieldMeridiem := by
  refine ⟨decodeWord_of_encode fieldWrite_meridiem.word, fun s h => ?_⟩
  obtain ⟨wp, raw, pe, d, hwrite, hend⟩ := fieldWrite_meridiem.completes h
  exact ⟨wp, raw, _, pe, d, meridiemByte_meridiemWritten raw s.snap.data, hwrite, hend⟩

/-- Settles O37: a field write of the hour register that writes the converted hour unless the format is the one asked for. -/
theorem wrfieldHourFormat : Obligations.WrfieldHourFormat := by
  refine ⟨decodeWord_of_encode fieldWrite_hourFormat.word, fun s h => ?_⟩
  obtain ⟨wp, raw, pe, d, hwrite, hend⟩ := fieldWrite_hourFormat.completes h
  exact ⟨wp, raw, _, pe, d, formatByte_formatWritten raw s.snap.data, hwrite, hend⟩

/-- Settles O38: a field write of the seconds register that replaces bit 7. -/
theorem wrfieldClockHalt : Obligations.WrfieldClockHalt := by
  refine ⟨decodeWord_of_encode fieldWrite_clockHalt.word, fun s h => ?_⟩
  obtain ⟨wp, raw, pe, d, hwrite, hend⟩ := fieldWrite_clockHalt.completes h
  exact ⟨wp, raw, _, pe, d, hwrite, fun n hn => getLsbD_replace_bit raw s.snap.data (k := 7) (by omega) hn, hend⟩

/-! ### WRFIELD.WRITEPROTECT (R216) -/

theorem exec_wrfieldWriteProtect (s : State) :
    exec .wrfieldWriteProtect s = s.operate fun _ S => wpWrite (S.data &&& 1) (.ret .done) := rfl

/-- The WP byte that a flag is written as (R202). -/
theorem bit_shift_seven (v : Byte) (n : Nat) : bit v n <<< 7 = if v.getLsbD n then 0x80 else 0x00 := by
  rw [bit_eq_ite]
  cases v.getLsbD n <;> rfl

/-- The gate lets a write of the WP register through whatever WP is (R87), and no draw is used. -/
theorem taken_wpWrite (pe : Peripheral) (b : Byte) (d : Nat) :
    pe.takenDraws 0x8E (.wr b) d = d ∧ (pe = .device → pe.taken 0x8E (.wr b) d = .device) ∧
      ∀ rp, pe = .reference rp → pe.taken 0x8E (.wr b) d = .reference (rp.setReg 7 b) := by
  cases pe with
  | device =>
    obtain ⟨htaken, hdraws⟩ := device_taken 0x8E (.wr b) d
    exact ⟨hdraws, fun _ => htaken, nofun⟩
  | reference rp =>
    obtain ⟨htaken, hdraws⟩ := reference_taken rp 0x8E b d (i := 7) rfl rfl rfl (by omega) rfl
    exact ⟨hdraws, nofun, fun rp' h => by rw [htaken, Peripheral.reference.inj h]⟩

/-- Settles O39: the rule is one write frame of the WP register. -/
theorem wrfieldWriteProtect : Obligations.WrfieldWriteProtect := by
  refine ⟨decodeWord_of_encode rfl, fun s b h hb => ?_⟩
  obtain ⟨hdraws, hdev, href⟩ := taken_wpWrite s.periph b s.draws
  have hbyte : b = (s.snap.data &&& 1) <<< 7 := by rw [hb, and_one_eq_bit_zero, bit_shift_seven]
  have hrun := wrXfer_runs h.between 0x8E b
  rw [hdraws] at hrun
  refine ⟨_, ?_, hdev, href⟩
  rw [exec_wrfieldWriteProtect]
  exact h.operate_runs hrun .done (by rw [hbyte]; rfl)

/-! ### WP after the guard (R219, R307) -/

/-- The started instruction `i` completes and leaves WP set with FORCE_SET, at its prior bit with RESTORE_PRIOR. -/
def LeavesWp (i : Instr) (s : State) (rp : RefPeripheral) : Prop :=
  ∃ t rp', exec i s = .next t ∧ t.periph = .reference rp' ∧
    (s.params.wpRestore = .forceSet → rp'.reg 7 = 0x80) ∧
    (s.params.wpRestore = .restorePrior → rp'.reg 7 = if (rp.reg 7).getLsbD 7 then 0x80 else 0x00)

section
variable {i : Instr} {s : State} {rp : RefPeripheral}

/-- The guard's last write decides what WP is. -/
theorem leavesWp_of_guard {t : State} {rp' : RefPeripheral} {wp : Byte} (hexec : exec i s = .next t)
    (hwp : s.params.wpRestore = .restorePrior → wp = rp.reg 7)
    (hpe : t.periph = .reference (rp'.setReg 7 (guardRestores s.params wp <<< 7))) : LeavesWp i s rp := by
  refine ⟨t, _, hexec, hpe, fun hforce => ?_, fun hprior => ?_⟩
  · rw [reg_setReg_self _ _ (by omega), guardRestores, hforce]
    rfl
  · rw [reg_setReg_self _ _ (by omega), guardRestores, hprior, hwp hprior]
    exact bit_shift_seven _ 7

/-- Whether or not the guarded operation writes a byte, the guard's last write comes after it. -/
theorem afterGuarded_eq_setReg (rp : RefPeripheral) (idx : Nat) (b : Option Byte) (f : Byte) :
    ∃ rp' : RefPeripheral, rp.afterGuarded idx b f = rp'.setReg 7 (f <<< 7) := by
  cases b <;> exact ⟨_, rfl⟩

theorem FieldWrite.leavesWp {w : OpWord} {rc wc : Byte} {idx : Nat}
    {body : Params → Byte → Prog OpResult → Prog OpResult} {b : Byte → Byte → Option Byte}
    (hf : FieldWrite i w rc wc idx body b) (h : Started i s) (hp : s.periph = .reference rp) : LeavesWp i s rp := by
  obtain ⟨wp, raw, pe, d, ⟨-, href⟩, hend⟩ := hf.completes h
  obtain ⟨-, hwp, hpe, -⟩ := href rp hp
  obtain ⟨rp', hlast⟩ := afterGuarded_eq_setReg rp idx (b raw s.snap.data) (guardRestores s.params wp)
  exact leavesWp_of_guard hend hwp (hpe.trans (congrArg _ hlast))

theorem RawWrite.leavesWp {w : OpWord} {wc : Byte} {idx : Nat} {body : Params → Byte → Prog OpResult → Prog OpResult}
    (hf : RawWrite i w wc idx body) (h : Started i s) (hp : s.periph = .reference rp) : LeavesWp i s rp := by
  obtain ⟨wp, pe, d, ⟨-, href⟩, hend⟩ := hf.completes h
  obtain ⟨hwp, hpe, -⟩ := href rp hp
  obtain ⟨rp', hlast⟩ := afterGuarded_eq_setReg rp idx (some s.snap.data) (guardRestores s.params wp)
  exact leavesWp_of_guard hend hwp (hpe.trans (congrArg _ hlast))

/-- A burst write, whatever its command byte. -/
theorem Started.burstWrite_leavesWp (h : Started i s) (hp : s.periph = .reference rp) {c : Byte} {n : Nat}
    (hn : 0 < n) (hn' : n ≤ 31) {rule : Params → Snapshot → Prog OpResult} (hexec : exec i s = s.operate rule)
    (hrule : rule s.params s.snap = burstWrXfer s.params c (s.snap.buf.firstBytes n) (.ret .done)) :
    LeavesWp i s rp := by
  have hne : s.snap.buf.firstBytes n ≠ [] := by
    rw [firstBytes_eq _ hn', ne_eq, List.map_eq_nil_iff, List.range_eq_nil]
    omega
  obtain ⟨wp, pe, d, hrun, -, href⟩ := burstWrXfer_runs h.between c hne
  obtain ⟨rp', -, hwp, hpe⟩ := href rp hp
  exact leavesWp_of_guard (hexec.trans (h.operate_runs hrun .done hrule)) hwp hpe

end

/-- Settles O40: each of the fourteen is one body inside the guard. -/
theorem wpAfterGuardedWrite : Obligations.WpAfterGuardedWrite := by
  intro i hi s rp h hp
  change LeavesWp i s rp
  simp only [List.mem_cons, List.not_mem_nil, or_false] at hi
  rcases hi with rfl | rfl | rfl | rfl | rfl | rfl | rfl | rfl | rfl | rfl | rfl | rfl | rfl | rfl
  · exact fieldWrite_second.leavesWp h hp
  · exact fieldWrite_minute.leavesWp h hp
  · exact fieldWrite_hour.leavesWp h hp
  · exact fieldWrite_date.leavesWp h hp
  · exact fieldWrite_month.leavesWp h hp
  · exact rawWrite_weekday.leavesWp h hp
  · exact fieldWrite_year.leavesWp h hp
  · exact fieldWrite_meridiem.leavesWp h hp
  · exact fieldWrite_hourFormat.leavesWp h hp
  · exact fieldWrite_clockHalt.leavesWp h hp
  · exact rawWrite_rawHour.leavesWp h hp
  · exact rawWrite_trickle.leavesWp h hp
  · exact h.burstWrite_leavesWp hp (by omega) (by omega) (exec_wrburstClock s) rfl
  · exact h.burstWrite_leavesWp hp (by omega) (by omega) (exec_wrburstRam s) rfl

end Sys2Proof.Machine
end

section
/-! PROOFS. TimeRecord sequencer (45_timerecord.md R240 to R246): the validation of a record, the registers that SETTIME
leaves, and SETTIME and GETTIME as a whole. -/

namespace Sys2Proof.Machine

/-! ### Validation (R242) -/

/-- The first failure of a list of checks is the first check's, or that of the others. -/
theorem firstFailure_cons (c : Bool × ErrCode) (cs : List (Bool × ErrCode)) :
    (((c :: cs).find? (·.1)).map (·.2)).getD 0 = if c.1 = true then c.2 else ((cs.find? (·.1)).map (·.2)).getD 0 := by
  rw [List.find?_cons]
  cases c.1 <;> rfl

/-- Settles O55: the chain of tests is the list of checks, one check after the other. -/
theorem validateFirstFailure : Obligations.ValidateFirstFailure := by
  intro r
  rw [firstFailure, recordChecks]
  simp only [firstFailure_cons, Bool.and_eq_true, bne_iff_ne, beq_iff_eq, decide_eq_true_eq]
  rfl

/-- What a record that passes every check satisfies. -/
structure ValidRecord (r : TimeRecord) : Prop where
  format : r.fmt = 0 ∨ r.fmt = 1
  second : r.sec.toNat ≤ 59
  minute : r.min.toNat ≤ 59
  hour12 : r.fmt = 1 → r.hour.toNat ≤ 12
  hour24 : r.fmt = 0 → r.hour.toNat ≤ 23
  date : r.date.toNat ≤ 31
  month : r.month.toNat ≤ 12
  year : r.year.toNat ≤ 99
  weekday : r.wday.toNat ≤ 7
  meridiem : r.fmt = 1 → r.mer = 0 ∨ r.mer = 1

/-- No check has the code 0, so where the first failure is 0 none fails. -/
theorem recordChecks_pass {r : TimeRecord} (h : firstFailure r = 0) : ∀ c ∈ recordChecks r, c.1 ≠ true := by
  have hcodes : ∀ c ∈ recordChecks r, c.2 ≠ 0 := by simp [recordChecks]
  apply List.find?_eq_none.mp
  rw [firstFailure] at h
  cases hfind : (recordChecks r).find? (·.1) with
  | none => rfl
  | some c =>
    rw [hfind] at h
    exact absurd h (hcodes c (List.mem_of_find?_eq_some hfind))

theorem validRecord_of_firstFailure {r : TimeRecord} (h : firstFailure r = 0) : ValidRecord r := by
  have hpass := recordChecks_pass h
  simp only [recordChecks, List.forall_mem_cons, Bool.and_eq_true, bne_iff_ne, beq_iff_eq, decide_eq_true_eq, ne_eq,
    not_and, not_not, not_lt] at hpass
  obtain ⟨hfmt, hsec, hmin, h12, h24, hdate, hmonth, hyear, hwday, hmer, -⟩ := hpass
  exact ⟨or_iff_not_imp_left.mpr hfmt, hsec, hmin, h12, h24, hdate, hmonth, hyear, hwday,
    fun h => or_iff_not_imp_left.mpr (hmer h)⟩

/-! ### GETTIME (R241) -/

theorem exec_gettime (s : State) : exec .gettime s = s.operate fun P _ => getTimeRule P := rfl

theorem Started.gettime_advances {s : State} (h : Started .gettime s) :
    exec .gettime s = .next ((getTimeRule s.params).advance s) := by
  obtain ⟨w, -, hseq⟩ := h.1
  exact (exec_gettime s).trans (operate_started hseq _)

/-- Settles O41: the rule's nine reads, and each decode on natural numbers or as a bit. -/
theorem gettimeReads : Obligations.GettimeReads := by
  intro s h
  obtain ⟨r, pe, d, hrun, hdev, href⟩ := getTimeRule_advance h.between
  exact ⟨r, pe, d, _, h.gettime_advances.trans (congrArg _ hrun), toNat_decodeSecond _, toNat_decodeMinute _,
    toNat_decodeHour _, toNat_decodeDate _, toNat_decodeMonth _, toNat_decodeYear _, rfl, bit_eq_ite _ 7, bit_eq_ite _ 5, hdev, href⟩

/-- The time record that the registers hold (R241). -/
def RefPeripheral.record (rp : RefPeripheral) : TimeRecord :=
  { sec := decodeSecond (rp.reg 0), min := decodeMinute (rp.reg 1), hour := decodeHour (rp.reg 2)
    date := decodeDate (rp.reg 3), month := decodeMonth (rp.reg 4), year := decodeYear (rp.reg 6)
    wday := decodeWeekday (rp.reg 5), fmt := decodeHourFormat (rp.reg 2), mer := decodeMeridiem (rp.reg 2) }

theorem Started.gettime_reference {s : State} {rp : RefPeripheral} (h : Started .gettime s)
    (hp : s.periph = .reference rp) : ∃ u, exec .gettime s = .next u ∧ u.tr = rp.record := by
  obtain ⟨r, pe, d, hrun, -, href⟩ := getTimeRule_advance h.between
  obtain ⟨-, -, h0, h1, h2, h3, h4, h5, h6, h7, h8⟩ := href rp hp
  refine ⟨_, h.gettime_advances.trans (congrArg _ hrun), ?_⟩
  rw [RefPeripheral.record, ← h0, ← h1, ← h3, ← h4, ← h5, ← h6]
  simp only [h2, h7, h8]

/-! ### The registers after the field writes (R201, R243) -/

/-- A guarded write of register `idx` changes that register, if a byte is written, and WP. -/
theorem reg_afterGuarded (rp : RefPeripheral) {idx : Nat} (hidx : idx ≤ 8) (b : Option Byte) (f : Byte) (k : Nat) :
    (rp.afterGuarded idx b f).reg k =
      if k = 7 then f <<< 7 else if k = idx then b.getD (rp.reg idx) else rp.reg k := by
  split
  next h7 =>
    subst h7
    cases b <;> exact reg_setReg_self _ _ (by omega)
  next h7 =>
    cases b with
    | none =>
      refine (reg_setReg_ne _ _ h7).trans ((reg_setReg_ne _ _ h7).trans ?_)
      split
      next hk => rw [hk, Option.getD_none]
      next => rfl
    | some v =>
      refine (reg_setReg_ne _ _ h7).trans ?_
      split
      next hk => exact hk ▸ reg_setReg_self _ _ (by omega)
      next hk => exact (reg_setReg_ne _ _ hk).trans (reg_setReg_ne _ _ h7)

@[simp] theorem rpr_afterGuarded (rp : RefPeripheral) (idx : Nat) (b : Option Byte) (f : Byte) :
    (rp.afterGuarded idx b f).rpr = rp.rpr := by
  cases b <;> rfl

/-! ### The hour register (R243, R245) -/

theorem getLsbD_enc24_seven (v : Byte) : (enc24 v).getLsbD 7 = false := by
  rw [enc24_eq_merge, getLsbD_merge _ _ _ (by omega)]
  rfl

theorem getLsbD_enc12_seven (h m : Byte) : (enc12 h m).getLsbD 7 = true := by
  rw [enc12_eq_merge, getLsbD_merge _ _ _ (by omega)]
  simp

/-- The conversion puts the hour byte into the other format. -/
theorem getLsbD_convertHour_seven (raw : Byte) : (convertHour raw).getLsbD 7 = !raw.getLsbD 7 := by
  rw [convertHour, bit_eq_ite raw 7]
  cases raw.getLsbD 7
  · exact getLsbD_enc12_seven _ _
  · exact getLsbD_enc24_seven _

/-- After WRFIELD.HOURFORMAT the register is in the format asked for, whether or not a byte was written (R214). -/
theorem getLsbD_formatWritten_seven (raw v : Byte) : ((formatWritten raw v).getD raw).getLsbD 7 = v.getLsbD 0 := by
  rw [formatWritten, and_one_eq_bit_zero]
  by_cases hsame : raw.getLsbD 7 = v.getLsbD 0
  · rw [if_pos ((bit_eq_bit_iff _ _ _ _).mpr hsame)]
    exact hsame
  · rw [if_neg ((bit_eq_bit_iff _ _ _ _).not.mpr hsame), Option.getD_some, getLsbD_convertHour_seven]
    exact (Bool.eq_not_of_ne (Ne.symm hsame)).symm

/-- WRFIELD.HOUR in 24 h format (R208). -/
theorem hourWritten_24 {raw : Byte} (h : raw.getLsbD 7 = false) (v : Byte) : hourWritten raw v = enc24 v := by
  rw [hourWritten, bit_eq_ite, h]
  rfl

/-- WRFIELD.HOUR in 12 h format, the meridiem bit kept (R208). -/
theorem hourWritten_12 {raw v : Byte} (h : raw.getLsbD 7 = true) (hv : v.toNat ≤ 12) :
    hourWritten raw v = enc12 v (bit raw 5) := by
  rw [hourWritten, bit_eq_ite raw 7, h, if_pos rfl, if_pos rfl, hour12Of, if_neg (by omega)]

/-- The format and the meridiem of a 12 h byte stand at bits 7 and 5. -/
theorem getLsbD_enc12 (h : Byte) (m : Bool) {n : Nat} (hn : n < 8) :
    (enc12 h (if m then 1 else 0)).getLsbD n =
      if (0x1F : Byte).getLsbD n then (bcd h).getLsbD n else if n = 5 then m else decide (n = 7) := by
  have hflags : ∀ k < 8, (0x80 ||| ((if m then 1 else 0 : Byte) <<< 5)).getLsbD k =
      if k = 5 then m else decide (k = 7) := by
    cases m <;> decide
  rw [enc12_eq_merge, getLsbD_merge _ _ _ hn, hflags n hn]

/-- WRFIELD.MERIDIEM on an hour byte in 12 h format replaces its meridiem (R213, R204). -/
theorem meridiemWritten_enc12 (h v : Byte) (m : Bool) :
    meridiemWritten (enc12 h (if m then 1 else 0)) v = some (enc12 h (if v.getLsbD 0 then 1 else 0)) := by
  rw [meridiemWritten, if_pos ((bit_eq_one_iff _ 7).mpr (getLsbD_enc12_seven _ _))]
  refine congrArg some (BitVec.eq_of_getLsbD_eq fun n hn => ?_)
  refine (getLsbD_replace_bit _ v (k := 5) (by omega) hn).trans ?_
  rw [getLsbD_enc12 _ _ hn, getLsbD_enc12 _ _ hn]
  by_cases h5 : n = 5
  · subst h5
    rfl
  · simp only [if_neg h5]

/-- The hour byte that stands for a record: its hour in its format, in 12 h format with its meridiem (R204, R245). -/
def hourRegister (r : TimeRecord) : Byte :=
  if r.fmt = 1 then enc12 r.hour (if r.mer.getLsbD 0 then 1 else 0) else enc24 r.hour

/-- HOURFORMAT and HOUR leave the hour of the record in its format, whatever byte the register held; in 12 h format MERIDIEM
then puts in the record's meridiem (R243). -/
theorem hourRegister_written {r : TimeRecord} (hr : ValidRecord r) (raw : Byte) :
    if r.fmt = 1 then
      meridiemWritten (hourWritten ((formatWritten raw r.fmt).getD raw) r.hour) r.mer = some (hourRegister r)
    else hourWritten ((formatWritten raw r.fmt).getD raw) r.hour = hourRegister r := by
  have hformat := getLsbD_formatWritten_seven raw r.fmt
  rw [hourRegister]
  split
  next h1 =>
    rw [hourWritten_12 (hformat.trans (by rw [h1]; rfl)) (hr.hour12 h1), bit_eq_ite, meridiemWritten_enc12]
  next h1 =>
    exact hourWritten_24 (hformat.trans (by rw [hr.format.resolve_right h1]; rfl)) r.hour

/-! ### SETTIME (R243 to R245) -/

/-- The reference peripheral `rp'` holds the record, the bits outside the value masks, the trickle register and the RAM being
those of `rp`, and `f` is the WP bit. -/
structure SetTo (r : TimeRecord) (rp : RefPeripheral) (f : Byte) (rp' : RefPeripheral) : Prop where
  second : rp'.reg 0 = merge (rp.reg 0) (bcd r.sec) 0x7F
  minute : rp'.reg 1 = merge (rp.reg 1) (bcd r.min) 0x7F
  hour : rp'.reg 2 = hourRegister r
  date : rp'.reg 3 = merge (rp.reg 3) (bcd r.date) 0x3F
  month : rp'.reg 4 = merge (rp.reg 4) (bcd r.month) 0x1F
  weekday : rp'.reg 5 = r.wday
  year : rp'.reg 6 = merge (rp.reg 6) (bcd r.year) 0xFF
  wp : rp'.reg 7 = f <<< 7
  trickle : rp'.reg 8 = rp.reg 8
  ram : rp'.rpr = rp.rpr

/-- The field writes of SetSequence, the last one included, set the reference peripheral to the record. -/
theorem AfterSet.setTo {w : Nat → Byte} {rp rp8 : RefPeripheral} {r : TimeRecord} (h : AfterSet w rp r rp8)
    (hr : ValidRecord r) :
    SetTo r rp (w (if r.fmt = 1 then 8 else 7))
      (if r.fmt = 1 then rp8.afterGuarded 2 (meridiemWritten (rp8.reg 2) r.mer) (w 8) else rp8) := by
  have hhour := hourRegister_written hr (rp.reg 2)
  obtain ⟨rp1, rp2, rp3, rp4, rp5, rp6, rp7, rfl, rfl, rfl, rfl, rfl, rfl, rfl, rfl⟩ := h
  split at hhour
  next h1 =>
    rw [if_pos h1, if_pos h1]
    constructor <;> simp [reg_afterGuarded, hhour]
  next h1 =>
    rw [if_neg h1, if_neg h1]
    constructor <;> simp [reg_afterGuarded, hhour]

/-! ### SETTIME (R244) -/

theorem exec_settime (s : State) : exec .settime s = s.operate fun P S => setTimeRule P S.tr := rfl

theorem setTimeRule_of_pass (P : Params) {r : TimeRecord} (h : firstFailure r = 0) :
    setTimeRule P r = setSequence P r (.ret .done) := by
  rw [setTimeRule, validateFirstFailure]
  exact if_pos h

theorem setTimeRule_of_failure (P : Params) {r : TimeRecord} (h : firstFailure r ≠ 0) :
    setTimeRule P r = .ret (.failed (firstFailure r)) := by
  rw [setTimeRule, validateFirstFailure]
  exact if_neg h

/-- The empty stretch has no event and leaves everything as it is. -/
theorem runs_id {s : State} (h : Between s) : Runs id s [] s.pads s.periph s.draws := by
  refine ⟨[], fun k => congrArg k.advance ?_⟩
  apply State.eq_of_fields <;> simp [State.went, h.2]

/-- Settles O42: the rule is the error alone. -/
theorem settimeRejects : Obligations.SettimeRejects := by
  intro s h hfail
  exact (exec_settime s).trans (h.operate_runs (runs_id h.between) (.failed _) (setTimeRule_of_failure _ hfail))

/-- The byte that the k-th merging field write of SetSequence makes of the byte `raw` it has read (R243). -/
def fieldByte (r : TimeRecord) (raw : Byte) : Nat → Byte
  | 1 => merge raw (bcd r.sec) 0x7F
  | 2 => merge raw (bcd r.min) 0x7F
  | 3 => hourWritten raw r.hour
  | 4 => merge raw (bcd r.date) 0x3F
  | 5 => merge raw (bcd r.month) 0x1F
  | _ => merge raw (bcd r.year) 0xFF

/-- Settles O43: the rule is SetSequence, and each body writes the byte that its field write does. -/
theorem settimeWrites : Obligations.SettimeWrites := by
  intro s h hpass
  obtain ⟨wp, raw, pe, d, hrun, hdev, -⟩ := setSequence_runs h.between s.snap.tr
  exact ⟨wp, raw, fun k => fieldByte s.snap.tr (raw k) k, _, _, pe, d, formatByte_formatWritten _ _,
    mergedByte_merge _ _ _, mergedByte_merge _ _ _, hourByte_hourWritten _ _, mergedByte_merge _ _ _,
    mergedByte_merge _ _ _, mergedByte_merge _ _ _, meridiemByte_meridiemWritten _ _, hdev,
    (exec_settime s).trans (h.operate_runs hrun .done (setTimeRule_of_pass _ hpass))⟩

/-- A SETTIME that passes completes and sets the reference peripheral to the record. -/
theorem Started.settime_reference {s : State} {rp : RefPeripheral} (h : Started .settime s)
    (hpass : firstFailure s.snap.tr = 0) (hp : s.periph = .reference rp) :
    ∃ es P rp' f, exec .settime s = .next (s.ended es P (.reference rp') s.draws 0) ∧
      SetTo s.snap.tr rp f rp' ∧ (s.params.wpRestore = .forceSet → f = 1) := by
  obtain ⟨wp, raw, pe, d, hrun, -, href⟩ := setSequence_runs h.between s.snap.tr
  obtain ⟨w, rp8, rfl, hforce, hset, rfl⟩ := href rp hp
  exact ⟨_, _, _, _, (exec_settime s).trans (h.operate_runs hrun .done (setTimeRule_of_pass _ hpass)),
    hset.setTo (validRecord_of_firstFailure hpass), fun hf => hforce hf _⟩

/-- Settles O44: the hour register holds the record's hour byte, and the last guard leaves WP. -/
theorem settimeHourRegister : Obligations.SettimeHourRegister := by
  intro s rp h hpass hp
  obtain ⟨es, P, rp', f, hexec, hset, hforce⟩ := h.settime_reference hpass hp
  refine ⟨_, rp', hexec, rfl, fun h12 => ?_, fun h24 => ?_, fun hf => ?_, hset.ram, hset.trickle⟩
  · rw [hset.hour, hourRegister, if_pos h12]
    exact hour12Byte_enc12 _ _
  · rw [hset.hour, hourRegister, h24]
    exact hour24Byte_enc24 _
  · rw [hset.wp, hforce hf]
    rfl

/-! ### SETTIME and then GETTIME (R246) -/

/-- Bit 5 of the 24 h byte belongs to the tens digit, which is 2 from hour 20 on. -/
theorem decodeMeridiem_enc24 {v : Byte} (hv : v.toNat ≤ 23) :
    decodeMeridiem (enc24 v) = if 20 ≤ v.toNat then 1 else 0 := by
  have h5 : (enc24 v).getLsbD 5 = decide (20 ≤ v.toNat) := by
    rw [enc24_eq_merge, getLsbD_merge _ _ _ (by omega), getLsbD_bcd _ (by omega), Nat.testBit_eq_decide_div_mod_eq, packed]
    have hquot : (16 * (v.toNat / 10) + v.toNat % 10) / 2 ^ 5 < 2 := by omega
    rw [Nat.mod_eq_of_lt hquot]
    exact decide_eq_decide.mpr (by omega)
  rw [decodeMeridiem, bit_eq_ite, h5]
  simp only [decide_eq_true_eq]

/-- The hour register of a valid record decodes to the record's hour, format and, in 12 h format, meridiem. -/
theorem decode_hourRegister {r : TimeRecord} (hr : ValidRecord r) :
    decodeHour (hourRegister r) = r.hour ∧ decodeHourFormat (hourRegister r) = r.fmt ∧
      decodeMeridiem (hourRegister r) = if r.fmt = 1 then r.mer else if 20 ≤ r.hour.toNat then 1 else 0 := by
  rw [hourRegister, decodeHourFormat, bit_eq_ite _ 7]
  split
  next h1 =>
    have hle := hr.hour12 h1
    refine ⟨decodeHour_enc12 (by omega) _, ?_, (decodeMeridiem_enc12 _ _).trans ?_⟩
    · rw [getLsbD_enc12_seven, h1]
      rfl
    · obtain hm | hm := hr.meridiem h1 <;> rw [hm] <;> rfl
  next h1 =>
    have h0 := hr.format.resolve_right h1
    have hle := hr.hour24 h0
    refine ⟨decodeHour_enc24 (by omega), ?_, decodeMeridiem_enc24 hle⟩
    rw [getLsbD_enc24_seven, h0]
    rfl

/-- Each register decodes to the field it was set to (R220). -/
theorem SetTo.record {r : TimeRecord} {rp rp' : RefPeripheral} {f : Byte} (h : SetTo r rp f rp') (hr : ValidRecord r) :
    rp'.record = { r with mer := if r.fmt = 1 then r.mer else if 20 ≤ r.hour.toNat then 1 else 0 } := by
  obtain ⟨hhour, hfmt, hmer⟩ := decode_hourRegister hr
  obtain ⟨hsec, -⟩ := bcdRoundTrip (rp.reg 0) r.sec
  obtain ⟨hmin, -⟩ := bcdRoundTrip (rp.reg 1) r.min
  obtain ⟨-, hdate, -⟩ := bcdRoundTrip (rp.reg 3) r.date
  obtain ⟨-, -, -, hmonth, -⟩ := bcdRoundTrip (rp.reg 4) r.month
  obtain ⟨-, -, -, -, hyear⟩ := bcdRoundTrip (rp.reg 6) r.year
  obtain ⟨-, hsecLe, hminLe, -, -, hdateLe, hmonthLe, hyearLe, -⟩ := hr
  obtain ⟨hsec, -⟩ := hsec (by omega)
  obtain ⟨-, hmin⟩ := hmin (by omega)
  obtain ⟨-, hdate⟩ := hdate (by omega)
  rw [RefPeripheral.record, h.second, h.minute, h.hour, h.date, h.month, h.weekday, h.year, hsec, hmin, hhour, hdate,
    hmonth (by omega), hyear (by omega), hfmt, hmer, decodeWeekday]

/-- A store of a legal OPC to an idle block is an acceptance (R26). -/
theorem hostStore_opc {s : State} (hidle : s.seq = none) {v : Byte} {i : Instr}
    (hw : decodeWord (opWord v s.arg) = .ok i) : s.hostStore 0 v = s.accept (opWord v s.arg) := by
  simp only [State.hostStore, State.request, State.busy, hidle, hw, if_true, Option.isSome_none, Bool.false_eq_true,
    if_false]

/-- An accepted operation stands at its first event. -/
theorem started_accept {s : State} (h : Between s) {w : OpWord} {i : Instr} (hw : decodeWord w = .ok i) :
    Started i (s.accept w) :=
  ⟨⟨w, hw, rfl⟩, h.2, h.1⟩

/-- GETTIME requested on an idle block (R26) leaves in TR_* the record that the reference peripheral holds. -/
theorem gettime_requested {t : State} {rp : RefPeripheral} (h : Between t) (hidle : t.seq = none)
    (hp : t.periph = .reference rp) : ∃ u, exec .gettime (t.hostStore 0 0x09) = .next u ∧ u.tr = rp.record := by
  have hget : decodeWord (opWord 0x09 t.arg) = .ok .gettime := decodeProcedure 0x09 t.arg
  rw [hostStore_opc hidle hget]
  exact (started_accept h hget).gettime_reference hp

/-- Settles O45: GETTIME, requested when SETTIME has completed, decodes the registers that SETTIME has set. -/
theorem setThenGet : Obligations.SetThenGet := by
  intro s rp h hpass hp
  obtain ⟨es, P, rp', f, hexec, hset, -⟩ := h.settime_reference hpass hp
  have hbetween : Between (s.ended es P (.reference rp') s.draws 0) := h.between
  obtain ⟨u, hu, htr⟩ := gettime_requested hbetween rfl rfl
  exact ⟨_, u, hexec, hu, htr.trans (hset.record (validRecord_of_firstFailure hpass))⟩

end Sys2Proof.Machine
end

section
/-! PROOFS. The exceptional requests (60_exceptions.md): an illegal word (R262), a request while an operation runs (R264),
and which of the two comes first (R266). -/

namespace Sys2Proof.Machine

/-! ### What a request that is not accepted does -/

/-- While BUSY = 1 the word is not looked at (R266). -/
theorem request_busy {s : State} {v : Byte} {q : Sequencer} (hq : s.seq = some q) :
    s.request v = { s with ovr := true } := by
  have hbusy : s.busy = true := Option.isSome_iff_exists.mpr ⟨q, hq⟩
  rw [State.request, if_pos hbusy]

/-- An idle block rejects what the decoder refuses, which is every illegal word (R106). -/
theorem request_illegal {s : State} {v : Byte} (hidle : s.seq = none) (hill : illegalWord v s.arg = true) :
    s.request v = { s with ovr := false, err := errIllegal } := by
  have hbusy : ¬ s.busy = true := by simp [State.busy, hidle]
  obtain ⟨why, hw⟩ : ∃ why, decodeWord (opWord v s.arg) = .error why :=
    (illegalWords _).mp (by rwa [opcOf_opWord, argOf_opWord])
  rw [State.request, if_neg hbusy, hw]

/-- The host's turn with a store to OPC. -/
theorem step_request {s : State} {m : When} {v : Byte} {rest : List HostInput} (ht : s.turn = .host)
    (hi : s.inputs = ⟨m, .store 0 v⟩ :: rest) : step s = .next ({ s with inputs := rest }.request v) := by
  rw [step_host ht, State.hostAct, hi]
  exact congrArg _ (if_pos rfl)

/-! ### The statements -/

/-- Settles O13: the block is idle, and the decoder refuses the word. -/
theorem requestIllegal : Obligations.RequestIllegal := by
  intro s m v rest ht hi hidle hill
  exact (step_request ht hi).trans (congrArg Host.Outcome.next (request_illegal hidle hill))

/-- Settles O14: BUSY = 1 is tested before the word. -/
theorem requestOverrun : Obligations.RequestOverrun := by
  intro s m v rest q ht hi hq
  exact (step_request ht hi).trans (congrArg Host.Outcome.next (request_busy hq))

end Sys2Proof.Machine
end

section
/-! PROOFS. Whose turn is the host's, the reset values, and the reset input outside and inside a frame
(70_reset_and_hazards.md R290 to R293). -/

namespace Sys2Proof.Machine

/-! ### The host's turn -/

theorem turn_host_iff (s : State) :
    s.turn = .host ↔ (∀ f, s.frame = some f → f.turn = false) ∧ (s.seq = none ∨ s.hostDue = true) := by
  constructor
  · intro h
    have hidle : ∀ f, s.frame = some f → f.turn = false := by
      intro f hf
      by_contra hturn
      rw [turn_peripheral hf (Bool.eq_true_of_not_eq_false hturn)] at h
      cases h
    refine ⟨hidle, ?_⟩
    cases hq : s.seq with
    | none => exact .inl rfl
    | some q =>
      right
      by_contra hdue
      rw [turn_controller hidle (Bool.eq_false_of_not_eq_true hdue) hq] at h
      cases h
  · rintro ⟨hidle, hq | hdue⟩
    · simp only [State.turn, pending_none hidle, hq]
    · simp only [State.turn, pending_none hidle, hdue, if_true]
      cases s.seq <;> rfl

/-- With no act to come the block idles (R290). -/
theorem hostAct_of_no_input {s : State} (hi : s.inputs = []) : s.hostAct = s := by
  rw [State.hostAct, hi]

/-! ### The reset values (R291) -/

theorem hostReg_reset (a : Offset) : State.reset.hostReg a = if a = 0x0E then 0xFF else 0 := by
  obtain ⟨k, hk, rfl⟩ := exists_offset a
  interval_cases k <;> rfl

/-- The reset input changes nothing in a machine right after reset. -/
theorem blockReset_reset : State.reset.blockReset = State.reset := rfl

/-! ### The reset input -/

/-- The host's turn with the reset input. -/
theorem step_reset {s : State} {m : When} {rest : List HostInput} (ht : s.turn = .host)
    (hi : s.inputs = ⟨m, .reset⟩ :: rest) : step s = .next { s with inputs := rest }.blockReset := by
  rw [step_host ht, State.hostAct, hi]

/-- With no frame open the reset input touches neither the peripheral nor its draws (R293). -/
theorem blockReset_of_no_frame {s : State} (hf : s.frame = none) :
    s.blockReset = { State.reset with
      periph := s.periph, draws := s.draws, inputs := s.inputs, reads := s.reads, params := s.params } := by
  have hperiph : s.periph.cut none s.draws = s.periph := by cases s.periph <;> rfl
  simp only [State.blockReset, hf, hperiph, cutDraws, Nat.add_zero]

/-- A frame that the reset input cuts takes 31 draws. -/
theorem blockReset_of_frame {s : State} {f : Frame} (hf : s.frame = some f) :
    s.blockReset = { State.reset with
      periph := s.periph.cut (some f) s.draws, draws := s.draws + 31, inputs := s.inputs, reads := s.reads
      params := s.params } := by
  simp only [State.blockReset, hf, cutDraws]

/-! ### A frame that is cut (R292) -/

section
variable (rp : RefPeripheral) {f : Frame} (d : Nat)

theorem cut_readFrame (hk : f.kind = .rd ∨ ∃ n, f.kind = .brd n) : rp.cut f d = rp := by
  obtain hk | ⟨n, hk⟩ := hk <;> simp only [RefPeripheral.cut, hk]

/-- The addressed register of a single write frame is a draw. -/
theorem cut_register {i : Nat} {v : Byte} (hc : RegisterCommand f.cmd false i) (hk : f.kind = .wr v) :
    rp.cut f d = rp.setReg i (Config.freeByte d) := by
  obtain ⟨hr, hs, hi, hle⟩ := hc
  simp [RefPeripheral.cut, RefPeripheral.freeAt, hk, hr, hs, hi, hle]

/-- All nine clock registers of a clock-burst write frame are draws. -/
theorem cut_clockBurst {ds : List Byte} (hc : f.cmd = 0xBE) (hk : f.kind = .bwr ds) :
    rp.cut f d = { rp with rpc := Vector.ofFn fun i : Fin 9 => Config.freeByte (d + i.val) } := by
  simp only [RefPeripheral.cut, hk, hc]
  rfl

/-- Where a read command in a write frame is ignored, a cut leaves no draw (log entry 21). -/
theorem cut_read_ignored (hr : cmdReads f.cmd = true) (hst : rp.strayRead = .ignored) : rp.cut f d = rp := by
  cases hk : f.kind <;> simp [RefPeripheral.cut, RefPeripheral.cutStray, hk, hr, hst]

end

/-- The registers after the reference peripheral has taken a command byte are those of its act. -/
theorem takeCommand_reference_periph {s : State} {f : Frame} {rp : RefPeripheral} (hf : s.frame = some f)
    (hp : s.periph = .reference rp) (c : Byte) : (s.takeCommand c).periph = (rp.act c f s.draws).periph := by
  simp only [State.takeCommand, hf, hp, Peripheral.act]

/-! ### The statements -/

/-- Settles O20: the next state is a block reset's, and the peripheral is cut by the kind of the frame, which leaves a draw
wherever its act could have written (`cut_covers`). -/
theorem resetCutsFrame : Obligations.ResetCutsFrame := by
  intro s m rest f ht hi hf
  refine ⟨s.periph.cut (some f) s.draws, ?_, ?_, ?_⟩
  · rw [step_reset ht hi, blockReset_of_frame (s := { s with inputs := rest }) hf]
  · intro hp
    rw [hp]
    rfl
  · intro rp hp
    refine ⟨rp.cut f s.draws, by rw [hp]; rfl, ?_, ?_, ?_, cut_read_ignored rp s.draws, ?_⟩
    · exact fun n hk => cut_readFrame rp s.draws (hk.imp_right fun hb => ⟨n, hb⟩)
    · intro v r hr hk hc
      exact cut_register rp s.draws (hc ▸ registerCommand_writeCmd hr) hk
    · intro ds hk hc
      rw [cut_clockBurst rp s.draws hc hk]
      exact ⟨rfl, fun k hlt => reg_free rp s.draws hlt⟩
    · intro rq hk hact
      rw [takeCommand_reference_periph hf hp] at hact
      exact cut_covers rp rq f s.draws s.draws hk hact

/-- Settles O9: the turns of the peripheral and of the controller are the two ways in which it is not the host's. -/
theorem hostTurn : Obligations.HostTurn :=
  ⟨turn_host_iff, fun s ht hi => by rw [step_host ht, hostAct_of_no_input hi]⟩

/-- Settles O18: the host registers offset by offset, the rest by the definition of `State.reset`. -/
theorem resetValues : Obligations.ResetValues :=
  ⟨rfl, hostReg_reset, rfl, rfl⟩

/-- Settles O19: the next state is a block reset's, which cuts no frame. -/
theorem resetInput : Obligations.ResetInput := by
  intro s m rest ht hi hf
  rw [step_reset ht hi, blockReset_of_no_frame (s := { s with inputs := rest }) hf]

/-- Settles O57: a block reset ends in the invariant, and `State.reset` is what one makes of it. -/
theorem resetInv : Obligations.ResetInv := by
  rw [Obligations.ResetInv, ← blockReset_reset]
  exact Invariant.blockReset State.reset

end Sys2Proof.Machine
end
